-- ==== Sys2Proof/Word.lean ====
section
/-! DEFINITION. The word and byte types of the engine. -/

namespace Sys2Proof

/-- A 64-bit register or bus value, the spec's `u64` (00_scope.md R8, `LIMB_W` of R6). -/
abbrev Word := BitVec 64

/-- A byte of the output encoding, the spec's `u8` (00_scope.md R8). -/
abbrev Byte := BitVec 8

end Sys2Proof
end

