-- ==== Sys2Proof/Config.lean ====
section
/-! DEFINITION. The engine's fixed parameters (00_scope.md R6), its open parameters and the free values. -/

namespace Sys2Proof.Config

/-- `MASK51` of R6: 2^51 - 1. -/
def mask51 : Word := 0x0007FFFFFFFFFFFF

/-- `FOLD` of R6 and 41_limb_reducer.md R123: 2^255 is 19 modulo p. -/
def fold : Word := 19

/-- `P` of R6: the field modulus. -/
def fieldPrime : Nat := 2 ^ 255 - 19

/-- `WINDOW` of R6: the register window's length in bytes. -/
def windowBytes : Nat := 256

/-- The open index that places the window. OPEN parameter, decision D6 of 92_eei_decisions.md; log 5. -/
opaque baseIndex : Nat

/-- `BASE` of R6 and R7: an open multiple of 256 (log 5, safe). -/
def base : Nat := windowBytes * baseIndex

/-- What `LAT_REDUCE` exceeds its least value 1 by. OPEN parameter, decision D18; log 6. -/
opaque latReduceExtra : Nat

/-- What `LAT_ENCODE` exceeds its least value 1 by. OPEN parameter, decision D18; log 6. -/
opaque latEncodeExtra : Nat

/-- `LAT_REDUCE` of R6, at least 1 and one constant for every operand (R108, R212).
No rule of the engine's function depends on it (R7): the step keeps no time. -/
def latReduce : Nat := latReduceExtra + 1

/-- `LAT_ENCODE` of R6, at least 1 and one constant for every operand (R108, R159, R212). -/
def latEncode : Nat := latEncodeExtra + 1

/-- The data a host read delivers when it falls in the reset cycle: 60_exceptions.md R188 says the access has no
effect and states no value. Free value, DESIGN CHOICE, safe, log 13; the number counts the values used. -/
opaque freeReadData : Nat → Word

end Sys2Proof.Config
end

