-- ==== Sys2Proof/Syntax.lean ====
section
/-! DEFINITION. The engine's instructions: the two commands of opcode_table.json. -/

namespace Sys2Proof

/-- The commands, one constructor per row of opcode_table.json (30_encoding.md R82). Operands are implicit (R84). -/
inductive Instr where
  /-- `REDUCE`, 41_limb_reducer.md R135. -/
  | reduce
  /-- `ENCODE`, 42_canonical_encoder.md R160. -/
  | encode
deriving DecidableEq, Repr

end Sys2Proof
end

