-- ==== Sys2Proof/Machine/State.lean ====
section
/-! DEFINITION. The machine's state: the engine's registers (10_state.md R38, R39), the host agent (00_scope.md R13,
30_encoding.md R87), the turns to come, and the reasons a step can stop. -/

namespace Sys2Proof.Machine

/-- A file of five 64-bit limb registers, limb k of weight 2^(51k) (10_state.md R20, 20_memory.md R61). -/
structure Limbs where
  l0 : Word
  l1 : Word
  l2 : Word
  l3 : Word
  l4 : Word
deriving DecidableEq, Repr

/-- A file of the four output byte words (10_state.md R24). -/
structure ByteWords where
  w0 : Word
  w1 : Word
  w2 : Word
  w3 : Word
deriving DecidableEq, Repr

/-- The registers of the window (20_memory.md R51). -/
inductive WindowReg where
  | inLimb (i : Fin 5)
  | cmd
  | status
  | outLimb (i : Fin 5)
  | outBytes (k : Fin 4)
deriving DecidableEq, Repr

/-- The kinds of bus error (60_exceptions.md R181, BE1 to BE4). -/
inductive BusErrorKind where
  | width
  | align
  | unmapped
  | access
deriving DecidableEq, Repr

/-- A host bus access: `MemRead(addr, n)` or `MemWrite(addr, n, v)` (00_scope.md R10, 20_memory.md R56, R57). -/
inductive BusAccess where
  | read (addr size : Nat)
  | write (addr size : Nat) (v : Word)
deriving DecidableEq, Repr

/-- The engine's reply to an access that reaches it: data for a read, an acknowledgement for a write, or a bus error,
which delivers no data (60_exceptions.md R182). -/
inductive BusReply where
  | data (v : Word)
  | ack
  | error (kind : BusErrorKind)
deriving DecidableEq, Repr

/-- A host statement (30_encoding.md R87). Variables and labels are named by numbers. -/
inductive HostStmt where
  /-- `wr REG, imm64` -/
  | wr (reg : WindowReg) (imm : Word)
  /-- `wr REG, vN` -/
  | wrVar (reg : WindowReg) (src : Nat)
  /-- `rd REG -> vN` -/
  | rd (reg : WindowReg) (dst : Nat)
  /-- `label:` -/
  | label (l : Nat)
  /-- `bnz vN, bit, label` -/
  | bnz (src : Nat) (bit : Fin 64) (l : Nat)
  /-- `mov vN, vM` -/
  | mov (dst src : Nat)
  /-- `halt` -/
  | halt
  /-- `MemRead(addr, n)` at any address and size, the result to a host variable (20_memory.md R56; log 15). -/
  | memRead (addr size dst : Nat)
  /-- `MemWrite(addr, n, v)` at any address and size (20_memory.md R57; log 15). -/
  | memWrite (addr size : Nat) (v : Word)
deriving DecidableEq, Repr

/-- Who moves next (00_scope.md R13, 40_command_protocol.md R110): one agent, or two events of one clock cycle. -/
inductive Turn where
  /-- The engine: the completion step (R106). -/
  | engine
  /-- The host: its next statement. -/
  | host
  /-- The external reset event (70_reset_and_hazards.md R200). -/
  | reset
  /-- Completion and a host statement in the same cycle (60_exceptions.md R187). -/
  | engineThenHost
  /-- Reset and a host statement in the same cycle (60_exceptions.md R188). -/
  | resetOverHost
deriving DecidableEq, Repr

/-- Reasons a run stops with a fault. -/
inductive Fault where
  /-- Raised by a host access that the engine answers with a bus error, with the access's address and size
  (60_exceptions.md R181, R182). Safe: the hardware goes on and the model stops (log 8). -/
  | busError (kind : BusErrorKind) (addr size : Nat)
deriving DecidableEq, Repr

/-- Reasons the model gives no meaning to a step. -/
inductive Refusal where
  /-- An instruction without a meaning yet; raised by `exec` alone. Safe. -/
  | notModelled (mnemonic : String)
  /-- Raised by a host access outside the register window: it reaches something else on the platform, which the
  spec does not describe (20_memory.md R50, R66). Safe (log 7). -/
  | outsideWindow (addr : Nat)
  /-- Raised by a taken `bnz` to a label the host program does not define (30_encoding.md R87). Safe (log 12). -/
  | undefinedLabel (l : Nat)
deriving DecidableEq, Repr

/-- All the state there is: the engine (10_state.md R39), the host, and the model's own schedule and counter. -/
structure State where
  /-- `IN[0..4]` (10_state.md R20). -/
  inp : Limbs
  /-- `OUT[0..4]` (10_state.md R22). -/
  out : Limbs
  /-- `OBW[0..3]` (10_state.md R24). -/
  obw : ByteWords
  /-- `STATUS.DONE` (10_state.md R29). -/
  done : Bool
  /-- `STATUS.ERR_CMD` (10_state.md R30). -/
  errCmd : Bool
  /-- `STATUS.ERR_BUSY` (10_state.md R31). -/
  errBusy : Bool
  /-- `STATUS.FAULT_TOPBIT` (10_state.md R32). -/
  faultTopbit : Bool
  /-- `PEND`: nothing is `NONE` (10_state.md R34). -/
  pend : Option Instr
  /-- `LATCH[0..4]` (10_state.md R34). -/
  latch : Limbs
  /-- The host program (30_encoding.md R87). -/
  hostProg : List HostStmt
  /-- Index of the host's next statement. -/
  hostPc : Nat
  /-- The host has executed `halt` (40_command_protocol.md R111). -/
  hostHalted : Bool
  /-- Host variables by number, in the canonical form of `VarsWf`; an unlisted one holds 0 (log 9). -/
  hostVars : List (Nat × Word)
  /-- The turns to come, first one first (40_command_protocol.md R110; log 3). -/
  sched : List Turn
  /-- How many free values have been used; the model's own (log 13). -/
  freeCount : Nat
deriving DecidableEq, Repr

/-- Five zero limbs. -/
def Limbs.zero : Limbs := ⟨0, 0, 0, 0, 0⟩

/-- Four zero byte words. -/
def ByteWords.zero : ByteWords := ⟨0, 0, 0, 0⟩

/-- The machine right after reset. The engine's fields are those of 10_state.md R38 and 70_reset_and_hazards.md R200;
the host's and the model's own are DESIGN CHOICE (log 3, 9, 10, 13). -/
def State.reset : State where
  inp := .zero
  out := .zero
  obw := .zero
  done := false
  errCmd := false
  errBusy := false
  faultTopbit := false
  pend := none
  latch := .zero
  hostProg := []
  hostPc := 0
  hostHalted := false
  hostVars := []
  sched := []
  freeCount := 0

end Sys2Proof.Machine
end

