-- ==== Sys2Proof/WellFormed.lean ====
section
/-! DEFINITION. Which instructions and host programs are well formed. -/

namespace Sys2Proof

/-- A command has no operand that could be ill formed (30_encoding.md R84). -/
def Instr.wf : Instr → Bool
  | .reduce => true
  | .encode => true

open Machine

/-- The labels a host program defines, in order (30_encoding.md R87). -/
def definedLabels : List HostStmt → List Nat
  | [] => []
  | .label l :: rest => l :: definedLabels rest
  | _ :: rest => definedLabels rest

/-- The labels a host program branches to (30_encoding.md R87). -/
def usedLabels : List HostStmt → List Nat
  | [] => []
  | .bnz _ _ l :: rest => l :: usedLabels rest
  | _ :: rest => usedLabels rest

/-- A label names one statement (30_encoding.md R87, "fresh label" of R88). -/
abbrev LabelsDistinct (p : List HostStmt) : Prop := (definedLabels p).Nodup

/-- Every branch goes to a label of the program. -/
abbrev LabelsDefined (p : List HostStmt) : Prop := ∀ l ∈ usedLabels p, l ∈ definedLabels p

/-- The program ends with `halt`, so the host never runs past its end (30_encoding.md R87). -/
abbrev EndsWithHalt (p : List HostStmt) : Prop := p.getLast? = some .halt

/-- A well-formed host program. -/
abbrev HostProgramWf (p : List HostStmt) : Prop :=
  LabelsDistinct p ∧ LabelsDefined p ∧ EndsWithHalt p

end Sys2Proof
end

