-- ==== Sys2Proof/Decode.lean ====
section
/-! DEFINITION. The command decoder (30_encoding.md R80 to R86), total on any word and any bytes and rejecting by name,
its byte-lane helpers (20_memory.md R60), and the encoder. -/

namespace Sys2Proof

/-- Why a 64-bit word is no command (R82). -/
inductive IllegalCommand where
  /-- `OP` is 0x00 or 0x03 to 0xFF, whatever `RSVD` holds. -/
  | reservedOpcode (op : BitVec 8)
  /-- `OP` is 0x01 or 0x02 and `RSVD` is not 0. -/
  | reservedBitsSet
deriving DecidableEq, Repr

/-- Why a byte string is no command. -/
inductive DecodeError where
  /-- A command word is 8 bytes, always delivered as one bus write (R81). -/
  | wrongLength (bytes : Nat)
  | illegal (why : IllegalCommand)
deriving DecidableEq, Repr

/-- Field `OP`, bits 7:0 (R80). -/
def opField (v : Word) : BitVec 8 := v.extractLsb' 0 8

/-- Field `RSVD`, bits 63:8 (R80). -/
def rsvdField (v : Word) : BitVec 56 := v.extractLsb' 8 56

/-- The opcode map of R82 on the fields of R80. -/
def decodeCommand (v : Word) : Except IllegalCommand Instr :=
  if opField v = 0x01 then
    if rsvdField v = 0 then .ok .reduce else .error .reservedBitsSet
  else if opField v = 0x02 then
    if rsvdField v = 0 then .ok .encode else .error .reservedBitsSet
  else .error (.reservedOpcode (opField v))

/-- Little-endian lanes: the first byte is the least significant (20_memory.md R59, R60). -/
def wordOfBytes : List Byte → Word
  | [] => 0
  | b :: bs => b.setWidth 64 ||| (wordOfBytes bs <<< 8)

/-- Byte lane i of a word, bits [8i+7 : 8i] (20_memory.md R60). -/
def laneOfWord (v : Word) (i : Nat) : Byte := v.extractLsb' (8 * i) 8

/-- The eight byte lanes of a word, lane 0 first. -/
def bytesOfWord (v : Word) : List Byte := (List.range 8).map (laneOfWord v)

/-- Decoding of any byte string: eight bytes are one command word (R81). -/
def decodeBytes (bs : List Byte) : Except DecodeError Instr :=
  if bs.length = 8 then
    match decodeCommand (wordOfBytes bs) with
    | .ok i => .ok i
    | .error e => .error (.illegal e)
  else .error (.wrongLength bs.length)

/-- The command word of an instruction: `OP` in bits 7:0 and zero above (R80, R82). -/
def encode : Instr → Word
  | .reduce => (0 : BitVec 56) ++ (0x01 : BitVec 8)
  | .encode => (0 : BitVec 56) ++ (0x02 : BitVec 8)

/-- The bytes of an instruction as they lie on the bus lanes. -/
def encodeBytes (i : Instr) : List Byte := bytesOfWord (encode i)

/-- The command word whose low `nbits` bits are w's and whose bits above are 0; nothing where `nbits` exceeds the one
length of R81. -/
def tableWord (nbits w : Nat) : Option Word :=
  if nbits ≤ 64 then some (BitVec.ofNat 64 (w % 2 ^ nbits)) else none

/-- What `decodeBytes` reads from the table word laid out on its byte lanes. -/
def decodeTableWord (nbits w : Nat) : Option Instr :=
  match tableWord nbits w with
  | none => none
  | some v =>
    match decodeBytes (bytesOfWord v) with
    | .ok i => some i
    | .error _ => none

end Sys2Proof
end

