-- ==== Sys2Proof/Machine/Operands.lean ====
section
/-! DEFINITION. Operand forms: limb and byte-word registers by index, limb fields, the integer a limb array stands for,
the register map (20_memory.md R51), and host variables (30_encoding.md R87). -/

namespace Sys2Proof.Machine

/-- Limb register i (10_state.md R20, R22). -/
def Limbs.get (l : Limbs) : Fin 5 → Word
  | 0 => l.l0
  | 1 => l.l1
  | 2 => l.l2
  | 3 => l.l3
  | 4 => l.l4

/-- Limb register i becomes v; the others keep their values. -/
def Limbs.set (l : Limbs) (i : Fin 5) (v : Word) : Limbs :=
  match i with
  | 0 => { l with l0 := v }
  | 1 => { l with l1 := v }
  | 2 => { l with l2 := v }
  | 3 => { l with l3 := v }
  | 4 => { l with l4 := v }

/-- Byte word k (10_state.md R24). -/
def ByteWords.get (b : ByteWords) : Fin 4 → Word
  | 0 => b.w0
  | 1 => b.w1
  | 2 => b.w2
  | 3 => b.w3

/-- `value(l)` of 41_limb_reducer.md R120. -/
def Limbs.value (l : Limbs) : Nat :=
  l.l0.toNat + l.l1.toNat * 2 ^ 51 + l.l2.toNat * 2 ^ 102 + l.l3.toNat * 2 ^ 153 + l.l4.toNat * 2 ^ 204

/-- The integer the four byte words hold: word k has weight 2^(64k) (10_state.md R24). -/
def ByteWords.value (b : ByteWords) : Nat :=
  b.w0.toNat + b.w1.toNat * 2 ^ 64 + b.w2.toNat * 2 ^ 128 + b.w3.toNat * 2 ^ 192

/-- `x >> 51`: the carry out of a limb (41_limb_reducer.md R121). -/
def carryOf (x : Word) : Word := x >>> 51

/-- `x & MASK51`: the low 51 bits of a limb (41_limb_reducer.md R121). -/
def low51 (x : Word) : Word := x &&& Config.mask51

/-- The integer a little-endian byte string holds (20_memory.md R59). -/
def bytesValue : List Byte → Nat
  | [] => 0
  | b :: bs => b.toNat + 256 * bytesValue bs

/-- `BYTE[j]` (10_state.md R25). -/
def ByteWords.byteAt (b : ByteWords) (j : Fin 32) : Byte :=
  laneOfWord (b.get ⟨j.val / 8, by omega⟩) (j.val % 8)

/-- The offset of a register in the window (20_memory.md R51). -/
def WindowReg.offset : WindowReg → Nat
  | .inLimb i => 8 * i.val
  | .cmd => 0x28
  | .status => 0x30
  | .outLimb i => 0x40 + 8 * i.val
  | .outBytes k => 0x80 + 8 * k.val

/-- The register at an offset; nothing at an unmapped one (20_memory.md R51, R52). -/
def WindowReg.at? : Nat → Option WindowReg
  | 0x00 => some (.inLimb 0)
  | 0x08 => some (.inLimb 1)
  | 0x10 => some (.inLimb 2)
  | 0x18 => some (.inLimb 3)
  | 0x20 => some (.inLimb 4)
  | 0x28 => some .cmd
  | 0x30 => some .status
  | 0x40 => some (.outLimb 0)
  | 0x48 => some (.outLimb 1)
  | 0x50 => some (.outLimb 2)
  | 0x58 => some (.outLimb 3)
  | 0x60 => some (.outLimb 4)
  | 0x80 => some (.outBytes 0)
  | 0x88 => some (.outBytes 1)
  | 0x90 => some (.outBytes 2)
  | 0x98 => some (.outBytes 3)
  | _ => none

/-- The access column of 20_memory.md R51 allows a write: RW and WO. -/
def WindowReg.writable : WindowReg → Bool
  | .inLimb _ => true
  | .cmd => true
  | .status => false
  | .outLimb _ => false
  | .outBytes _ => false

/-- The bus address of a register, `BASE + off(REG)` (20_memory.md R58, 30_encoding.md R87). -/
def WindowReg.addr (r : WindowReg) : Nat := Config.base + r.offset

/-- The address an access puts on the bus. -/
def BusAccess.addr : BusAccess → Nat
  | .read a _ => a
  | .write a _ _ => a

/-- The size in bytes of an access. -/
def BusAccess.size : BusAccess → Nat
  | .read _ n => n
  | .write _ n _ => n

/-- The access reaches the window: its address is `BASE + 0x00` to `BASE + 0xFF` (20_memory.md R50). -/
def BusAccess.inWindow (a : BusAccess) : Bool :=
  decide (Config.base ≤ a.addr) && decide (a.addr < Config.base + Config.windowBytes)

/-- The canonical form of host variables: numbers strictly rising, no listed variable 0 (log 9). -/
abbrev VarsWf (vs : List (Nat × Word)) : Prop :=
  vs.Pairwise (fun a b => a.1 < b.1) ∧ ∀ p ∈ vs, p.2 ≠ 0

/-- The value of host variable n; an unlisted one holds 0 (log 9). -/
def varRead : List (Nat × Word) → Nat → Word
  | [], _ => 0
  | (k, v) :: rest, n => if k = n then v else varRead rest n

/-- Host variable n becomes w, in canonical form. -/
def varWrite : List (Nat × Word) → Nat → Word → List (Nat × Word)
  | [], n, w => if w = 0 then [] else [(n, w)]
  | (k, v) :: rest, n, w =>
    if n < k then (if w = 0 then (k, v) :: rest else (n, w) :: (k, v) :: rest)
    else if n = k then (if w = 0 then rest else (n, w) :: rest)
    else (k, v) :: varWrite rest n w

end Sys2Proof.Machine
end

