-- ==== Sys2Proof/Machine/Flags.lean ====
section
/-! DEFINITION. The STATUS register (10_state.md R27 to R33): its word and the flag updates the protocol makes. -/

namespace Sys2Proof.Machine

/-- `STATUS.BUSY`: a view of PEND (10_state.md R28). -/
def State.busy (s : State) : Bool := s.pend.isSome

/-- A flag as bit i of a 64-bit word. -/
def flagBit (b : Bool) (i : Nat) : Word := (BitVec.ofBool b).setWidth 64 <<< i

/-- What a read of `STATUS` returns (20_memory.md R56); bits 63:5 are 0 (10_state.md R33). -/
def State.statusWord (s : State) : Word :=
  flagBit s.faultTopbit 4 ||| flagBit s.errBusy 3 ||| flagBit s.errCmd 2 ||| flagBit s.done 1 ||| flagBit s.busy 0

/-- An idle CMD write clears DONE, ERR_CMD and ERR_BUSY (10_state.md R29, R30, R31). -/
def State.clearStatus (s : State) : State := { s with done := false, errCmd := false, errBusy := false }

/-- ERR_BUSY is set (10_state.md R31). -/
def State.raiseErrBusy (s : State) : State := { s with errBusy := true }

/-- ERR_CMD is set (10_state.md R30). -/
def State.raiseErrCmd (s : State) : State := { s with errCmd := true }

/-- FAULT_TOPBIT is set when the check bit is 1 and otherwise keeps its value (10_state.md R32). -/
def State.noteTopbit (s : State) (top : Bool) : State := { s with faultTopbit := s.faultTopbit || top }

end Sys2Proof.Machine
end

