-- ==== Sys2Proof/Machine/Ops.lean ====
section
/-! DEFINITION. The operations every event is made of: register updates, the CMD write (40_command_protocol.md R100), the
end of a completion (R106), reset (70_reset_and_hazards.md R200), and the bus access primitives (20_memory.md R56, R57).
The engine has no trap to take (60_exceptions.md R180); its one shared error path is the bus error reply of `serve`. -/

namespace Sys2Proof.Machine

/-- `IN[i] <- v` (20_memory.md R57): nothing else changes. -/
def State.setIn (s : State) (i : Fin 5) (v : Word) : State := { s with inp := s.inp.set i v }

/-- All five `OUT` registers are written at once (10_state.md R22). -/
def State.setOut (s : State) (l : Limbs) : State := { s with out := l }

/-- All four `OBW` words are written at once (10_state.md R24). -/
def State.setObw (s : State) (b : ByteWords) : State := { s with obw := b }

/-- The end of a completion: PEND <- NONE and DONE <- 1 (40_command_protocol.md R106). -/
def State.finishCommand (s : State) : State := { s with pend := none, done := true }

/-- Acceptance (40_command_protocol.md R101): IN is copied to LATCH and PEND holds the command. -/
def State.acceptCommand (s : State) (i : Instr) : State := { s.clearStatus with latch := s.inp, pend := some i }

/-- An illegal command while idle (40_command_protocol.md R102). -/
def State.rejectCommand (s : State) : State := s.clearStatus.raiseErrCmd

/-- `CmdWrite(v)` (40_command_protocol.md R100): the busy test comes before decoding (60_exceptions.md R186). -/
def State.cmdWrite (s : State) (v : Word) : State :=
  match s.pend with
  | some _ => s.raiseErrBusy
  | none =>
    match decodeCommand v with
    | .ok i => s.acceptCommand i
    | .error _ => s.rejectCommand

/-- Reset of the engine (70_reset_and_hazards.md R200): every engine field takes its reset value.
The host, its schedule and the free-value counter are not the engine's and stay (log 14). -/
def State.resetEngine (s : State) : State :=
  { s with
    inp := State.reset.inp
    out := State.reset.out
    obw := State.reset.obw
    done := State.reset.done
    errCmd := State.reset.errCmd
    errBusy := State.reset.errBusy
    faultTopbit := State.reset.faultTopbit
    pend := State.reset.pend
    latch := State.reset.latch }

/-- The value a readable register returns (20_memory.md R56); `CMD` holds none (10_state.md R26). -/
def State.readReg (s : State) : WindowReg → Option Word
  | .inLimb i => some (s.inp.get i)
  | .cmd => none
  | .status => some s.statusWord
  | .outLimb i => some (s.out.get i)
  | .outBytes k => some (s.obw.get k)

/-- The effect of a permitted write of a register (20_memory.md R57). -/
def State.writeReg (s : State) (v : Word) : WindowReg → State
  | .inLimb i => s.setIn i v
  | .cmd => s.cmdWrite v
  | .status => s
  | .outLimb _ => s
  | .outBytes _ => s

/-- The checks common to reads and writes, in the order of 60_exceptions.md R185 up to UNMAPPED: the register an
access of `size` bytes at offset `off` names, or the bus error. -/
def checkAccess (off size : Nat) : Except BusErrorKind WindowReg :=
  if size ≠ 8 then .error .width
  else if off % 8 ≠ 0 then .error .align
  else
    match WindowReg.at? off with
    | none => .error .unmapped
    | some r => .ok r

/-- `MemRead` by offset (20_memory.md R56). -/
def State.readWindow (s : State) (off size : Nat) : BusReply :=
  match checkAccess off size with
  | .error k => .error k
  | .ok r =>
    match s.readReg r with
    | none => .error .access
    | some v => .data v

/-- `MemWrite` by offset (20_memory.md R57). -/
def State.writeWindow (s : State) (off size : Nat) (v : Word) : BusReply × State :=
  match checkAccess off size with
  | .error k => (.error k, s)
  | .ok r => if r.writable then (.ack, s.writeReg v r) else (.error .access, s)

/-- The engine's answer to an access that reaches the window, and the engine's state after it
(20_memory.md R56, R57, 60_exceptions.md R182). The offset is the address less BASE. -/
def State.serve (s : State) : BusAccess → BusReply × State
  | .read a n => (s.readWindow (a - Config.base) n, s)
  | .write a n v => s.writeWindow (a - Config.base) n v

/-- The byte of the window at an offset, on its bus lane (20_memory.md R60), as a register read would deliver it;
nothing where no register is readable. No access this narrow exists on the bus (20_memory.md R53): this is a view. -/
def State.windowByte (s : State) (off : Nat) : Option Byte :=
  match WindowReg.at? (off / 8 * 8) with
  | none => none
  | some r => (s.readReg r).map (fun v => laneOfWord v (off % 8))

end Sys2Proof.Machine
end

