-- ==== Sys2Proof/Machine/LimbReducer.lean ====
section
/-! DEFINITION. The Limb Reducer and the REDUCE command (41_limb_reducer.md). -/

namespace Sys2Proof.Machine

/-- `reduce` of 41_limb_reducer.md R121: one parallel pass, every carry and mask taken from the original limbs (R122),
the top carry folded into limb 0 times 19 (R123). -/
def weakReduce (l : Limbs) : Limbs where
  l0 := low51 l.l0 + Config.fold * carryOf l.l4
  l1 := low51 l.l1 + carryOf l.l0
  l2 := low51 l.l2 + carryOf l.l1
  l3 := low51 l.l3 + carryOf l.l2
  l4 := low51 l.l4 + carryOf l.l3

/-- REDUCE (41_limb_reducer.md R135): its completion (40_command_protocol.md R106). OBW is not written (log 1). -/
def execReduce (s : State) : Host.Outcome State Fault Refusal :=
  .next (s.setOut (weakReduce s.latch)).finishCommand

end Sys2Proof.Machine
end

