-- ==== Sys2Proof/Machine/CanonicalEncoder.lean ====
section
/-! DEFINITION. The Canonical Encoder and the ENCODE command (42_canonical_encoder.md). -/

namespace Sys2Proof.Machine

/-- Step 2 (42_canonical_encoder.md R142): the quotient bit by a sequential ripple from the constant 19. -/
def quotientBit (h : Limbs) : Word :=
  let q := carryOf (h.l0 + 19)
  let q := carryOf (h.l1 + q)
  let q := carryOf (h.l2 + q)
  let q := carryOf (h.l3 + q)
  carryOf (h.l4 + q)

/-- The limb sums of step 3 before their masks (42_canonical_encoder.md R146): limb i of h plus the carry out of the
sum before it, from 19q in limb 0. -/
def rippleSums (h : Limbs) (q : Word) : Limbs :=
  let t0 := h.l0 + Config.fold * q
  let t1 := h.l1 + carryOf t0
  let t2 := h.l2 + carryOf t1
  let t3 := h.l3 + carryOf t2
  let t4 := h.l4 + carryOf t3
  ⟨t0, t1, t2, t3, t4⟩

/-- The low 51 bits of every limb. -/
def Limbs.masked (t : Limbs) : Limbs := ⟨low51 t.l0, low51 t.l1, low51 t.l2, low51 t.l3, low51 t.l4⟩

/-- The carry out of limb 4 that step 3 discards (42_canonical_encoder.md R147). -/
def discardedCarry (h : Limbs) (q : Word) : Word := carryOf (rippleSums h q).l4

/-- Step 3 (42_canonical_encoder.md R146): unconditional, q enters only as an operand (R148). -/
def subtractPrime (h : Limbs) (q : Word) : Limbs := (rippleSums h q).masked

/-- The packed value N of step 4 (42_canonical_encoder.md R155): limb k in bits [51k, 51k+51). -/
def packLimbs (t : Limbs) : BitVec 256 :=
  t.l0.setWidth 256 ||| t.l1.setWidth 256 <<< 51 ||| t.l2.setWidth 256 <<< 102 |||
    t.l3.setWidth 256 <<< 153 ||| t.l4.setWidth 256 <<< 204

/-- The 32 bytes of step 4, least significant first (42_canonical_encoder.md R155). -/
def unpackBytes (n : BitVec 256) : List Byte := (List.range 32).map (fun j => n.extractLsb' (8 * j) 8)

/-- The check bit of step 5, the top bit of byte 31 (42_canonical_encoder.md R157). -/
def topBit (bs : List Byte) : Bool := (bs.getD 31 0).getLsbD 7

/-- What `encode` returns (42_canonical_encoder.md R158): the canonical limbs, the 32 bytes and the check bit. -/
structure Encoding where
  limbs : Limbs
  bytes : List Byte
  top : Bool
deriving DecidableEq, Repr

/-- `encode` of 42_canonical_encoder.md R158: the five steps composed. -/
def canonicalEncode (l : Limbs) : Encoding :=
  let h := weakReduce l
  let t := subtractPrime h (quotientBit h)
  let bs := unpackBytes (packLimbs t)
  ⟨t, bs, topBit bs⟩

/-- Byte word k of a byte string: bytes 8k to 8k+7, byte 8k in bits [7:0] (40_command_protocol.md R106). -/
def byteWord (bs : List Byte) (k : Nat) : Word := wordOfBytes ((bs.drop (8 * k)).take 8)

/-- The four byte words of a byte string (10_state.md R24). -/
def byteWords (bs : List Byte) : ByteWords := ⟨byteWord bs 0, byteWord bs 1, byteWord bs 2, byteWord bs 3⟩

/-- ENCODE (42_canonical_encoder.md R160): its completion (40_command_protocol.md R106), the top-bit check kept as a
flag (R157, log 17). -/
def execEncode (s : State) : Host.Outcome State Fault Refusal :=
  let e := canonicalEncode s.latch
  .next (((s.setOut e.limbs).setObw (byteWords e.bytes)).noteTopbit e.top).finishCommand

end Sys2Proof.Machine
end

