-- ==== Sys2Proof/Machine/Dispatch.lean ====
section
/-! DEFINITION. The dispatch: one arm per command. -/

namespace Sys2Proof.Machine

def exec (i : Instr) (s : State) : Host.Outcome State Fault Refusal :=
  match i with
  | .reduce => Sys2Proof.Machine.execReduce s
  | .encode => Sys2Proof.Machine.execEncode s

end Sys2Proof.Machine
end

