-- ==== Sys2Proof/Machine/HostAgent.lean ====
section
/-! DEFINITION. The host agent (00_scope.md R13): its statements (30_encoding.md R87), how its bus accesses reach the
engine, and the expansions of the pseudo-instructions (R88, R91). -/

namespace Sys2Proof.Machine

/-- The host goes on with its next statement. -/
def State.advance (s : State) : State := { s with hostPc := s.hostPc + 1 }

/-- The host goes on at statement k. -/
def State.hostJump (s : State) (k : Nat) : State := { s with hostPc := k }

/-- The host stops (30_encoding.md R87 `halt`). -/
def State.haltHost (s : State) : State := { s with hostHalted := true }

/-- The value of host variable n. -/
def State.var (s : State) (n : Nat) : Word := varRead s.hostVars n

/-- Host variable n becomes w. -/
def State.setVar (s : State) (n : Nat) (w : Word) : State := { s with hostVars := varWrite s.hostVars n w }

/-- The destination variable of a read, if any, becomes w. -/
def State.setDest (s : State) (dst : Option Nat) (w : Word) : State :=
  match dst with
  | none => s
  | some n => s.setVar n w

/-- One more free value is used (log 13). -/
def State.countFree (s : State) : State := { s with freeCount := s.freeCount + 1 }

/-- A bus access of the host: the engine serves it, a read's data goes to the destination variable, and a bus error is a
fault of the run that delivers no data (60_exceptions.md R182; log 7, 8). -/
def busTurn (a : BusAccess) (dst : Option Nat) (s : State) : Host.Outcome State Fault Refusal :=
  if a.inWindow then
    match s.serve a with
    | (.error k, _) => .fault (.busError k a.addr a.size)
    | (.ack, s') => .next s'.advance
    | (.data v, s') => .next (s'.setDest dst v).advance
  else .refused (.outsideWindow a.addr)

/-- A bus access of the host in a reset cycle: it has no effect on the engine (60_exceptions.md R188).
A read's destination takes a free value, since the spec states no data (log 13). -/
def lostTurn (a : BusAccess) (dst : Option Nat) (s : State) : Host.Outcome State Fault Refusal :=
  if a.inWindow then
    match dst with
    | none => .next s.advance
    | some n => .next ((s.setVar n (Config.freeReadData s.freeCount)).countFree).advance
  else .refused (.outsideWindow a.addr)

/-- The index of the statement a label names: the one after the label's own line (30_encoding.md R87). The first
definition counts (log 12). -/
def findLabel (l : Nat) : List HostStmt → Option Nat
  | [] => none
  | st :: rest => if st = .label l then some 1 else (findLabel l rest).map (· + 1)

/-- One host statement (30_encoding.md R87); `bus` says what becomes of a bus access. -/
def hostStatement (bus : BusAccess → Option Nat → State → Host.Outcome State Fault Refusal)
    (st : HostStmt) (s : State) : Host.Outcome State Fault Refusal :=
  match st with
  | .wr r v => bus (.write r.addr 8 v) none s
  | .wrVar r x => bus (.write r.addr 8 (s.var x)) none s
  | .rd r x => bus (.read r.addr 8) (some x) s
  | .memRead a n x => bus (.read a n) (some x) s
  | .memWrite a n v => bus (.write a n v) none s
  | .label _ => .next s.advance
  | .bnz x b l =>
    if (s.var x).getLsbD b.val then
      match findLabel l s.hostProg with
      | some k => .next (s.hostJump k)
      | none => .refused (.undefinedLabel l)
    else .next s.advance
  | .mov x y => .next (s.setVar x (s.var y)).advance
  | .halt => .next s.haltHost

/-- The host's next statement: none once halted (40_command_protocol.md R111) or past the program's end (log 11). -/
def State.currentStmt (s : State) : Option HostStmt :=
  if s.hostHalted then none else s.hostProg[s.hostPc]?

/-- The host's turn. A host with no statement left makes no access and nothing changes (log 11). -/
def hostTurn (s : State) : Host.Outcome State Fault Refusal :=
  match s.currentStmt with
  | none => .next s
  | some st => hostStatement busTurn st s

/-- The host's turn in a reset cycle (60_exceptions.md R188). -/
def hostTurnInReset (s : State) : Host.Outcome State Fault Refusal :=
  match s.currentStmt with
  | none => .next s
  | some st => hostStatement lostTurn st s

/-- The bus transaction of a statement, `(R|W, offset, data)`: the listing of 30_encoding.md R90, a read carrying no
data. A raw access is listed at its offset from BASE; a host-local statement has none. -/
def State.transaction (s : State) : HostStmt → Option (Bool × Nat × Option Word)
  | .wr r v => some (true, r.offset, some v)
  | .wrVar r x => some (true, r.offset, some (s.var x))
  | .rd r _ => some (false, r.offset, none)
  | .memRead a _ _ => some (false, a - Config.base, none)
  | .memWrite a _ v => some (true, a - Config.base, some v)
  | .label _ => none
  | .bnz _ _ _ => none
  | .mov _ _ => none
  | .halt => none

/-- `cmd REDUCE` and `cmd ENCODE` (30_encoding.md R88). -/
def pseudoCmd (i : Instr) : List HostStmt := [.wr .cmd (encode i)]

/-- `ldfe a, b, c, d, e` (30_encoding.md R88). -/
def pseudoLdfe (l : Limbs) : List HostStmt :=
  [.wr (.inLimb 0) l.l0, .wr (.inLimb 1) l.l1, .wr (.inLimb 2) l.l2, .wr (.inLimb 3) l.l3, .wr (.inLimb 4) l.l4]

/-- `wait -> vS` with the fresh label l (30_encoding.md R88, R89). -/
def pseudoWait (l vS : Nat) : List HostStmt := [.label l, .rd .status vS, .bnz vS 0 l]

/-- `rdfe -> v0..v4`, into five variables from v on (30_encoding.md R88). -/
def pseudoRdfe (v : Nat) : List HostStmt :=
  [.rd (.outLimb 0) v, .rd (.outLimb 1) (v + 1), .rd (.outLimb 2) (v + 2), .rd (.outLimb 3) (v + 3),
    .rd (.outLimb 4) (v + 4)]

/-- `rdbytes -> w0..w3`, into four variables from w on (30_encoding.md R88). -/
def pseudoRdbytes (w : Nat) : List HostStmt :=
  [.rd (.outBytes 0) w, .rd (.outBytes 1) (w + 1), .rd (.outBytes 2) (w + 2), .rd (.outBytes 3) (w + 3)]

/-- `copyback` through the variable t (30_encoding.md R88). -/
def pseudoCopyback (t : Nat) : List HostStmt :=
  [.rd (.outLimb 0) t, .wrVar (.inLimb 0) t, .rd (.outLimb 1) t, .wrVar (.inLimb 1) t, .rd (.outLimb 2) t,
    .wrVar (.inLimb 2) t, .rd (.outLimb 3) t, .wrVar (.inLimb 3) t, .rd (.outLimb 4) t, .wrVar (.inLimb 4) t]

/-- The canonical sequence for one command (30_encoding.md R91, 70_reset_and_hazards.md R204), with the label and the
first variables it uses; the bytes are read after ENCODE only. -/
def canonicalSequence (i : Instr) (x : Limbs) (l vS v w : Nat) : List HostStmt :=
  pseudoLdfe x ++ pseudoCmd i ++ pseudoWait l vS ++ pseudoRdfe v ++
    (match i with
      | .reduce => []
      | .encode => pseudoRdbytes w)

end Sys2Proof.Machine
end

