-- ==== Sys2Proof/Machine/Turns.lean ====
section
/-! DEFINITION. The turns of the machine: one event, or two events of one clock cycle in their order, and how a command is
placed for the next step to run. -/

namespace Sys2Proof.Machine

/-- The engine's turn: completion, enabled exactly when PEND is not NONE (40_command_protocol.md R106). A turn that is
not enabled changes nothing (log 4). -/
def engineTurn (s : State) : Host.Outcome State Fault Refusal :=
  match s.pend with
  | none => .next s
  | some i => exec i s

/-- One turn. Completion precedes a same-cycle access (60_exceptions.md R187); reset wins over one (R188). -/
def runTurn (t : Turn) (s : State) : Host.Outcome State Fault Refusal :=
  match t with
  | .engine => engineTurn s
  | .host => hostTurn s
  | .reset => .next s.resetEngine
  | .engineThenHost =>
    match engineTurn s with
    | .next s' => hostTurn s'
    | .fault r => .fault r
    | .refused r => .refused r
  | .resetOverHost => hostTurnInReset s.resetEngine

/-- Who moves when the schedule is used up: a pending command completes first, which makes completion weakly fair
(00_scope.md R13; log 3). -/
def defaultTurn (s : State) : Turn :=
  match s.pend with
  | some _ => .engine
  | none => .host

/-- The next turn and the state with that turn taken off the schedule. -/
def State.takeTurn (s : State) : Turn × State :=
  match s.sched with
  | [] => (defaultTurn s, s)
  | t :: rest => (t, { s with sched := rest })

/-- One step: the next turn, run. -/
def nextStep (s : State) : Host.Outcome State Fault Refusal := runTurn s.takeTurn.1 s.takeTurn.2

/-- The command word v is written to CMD while the engine is idle, and the engine moves next: the very next step
completes the command v holds, on the IN of s (40_command_protocol.md R100, R106; log 2). -/
def State.placeCommand (s : State) (v : Word) : State :=
  { State.cmdWrite { s with pend := none } v with sched := .engine :: s.sched }

/-- The table word of `tableWord` placed as a command; a length no command has places nothing. -/
def State.placeTableWord (s : State) (nbits w : Nat) : State :=
  match tableWord nbits w with
  | none => s
  | some v => s.placeCommand v

end Sys2Proof.Machine
end

