-- ==== Sys2Proof/Machine/Step.lean ====
section
/-! DEFINITION. The step, and the state in which the next step runs a given command word. -/

namespace Sys2Proof.Machine

/-- One step of the machine: one turn of an agent (00_scope.md R13, 20_memory.md R67). -/
def step (s : State) : Host.Outcome State Fault Refusal := nextStep s

/-- s with a command word accepted and the engine to move next (log 2). -/
def State.withFetchWord (s : State) (nbits w : Nat) : State := s.placeTableWord nbits w

end Sys2Proof.Machine
end

