-- ==== Sys2Proof/Safety.lean ====
section
/-! DEFINITION. What counts as a safe run, and the invariant of the reachable states, in the terms claims use. -/

namespace Sys2Proof.Safety

open Machine

/-- The run is over: the host has halted and no command is pending (40_command_protocol.md R111). -/
abbrev Finished (s : State) : Prop := s.hostHalted = true ∧ s.pend = none

/-- k steps from s meet no bus error: the premise a claim about a program takes (60_exceptions.md R182). -/
def NoBusError (k : Nat) (s : State) : Prop :=
  ∀ kind addr size, Host.Core.run core k s ≠ .fault (.busError kind addr size)

/-- The status fields agree with the protocol (10_state.md R27 to R32): a pending command is neither done nor in error,
an illegal command leaves neither DONE nor ERR_BUSY, ERR_BUSY needs a command that ran, and FAULT_TOPBIT is never set. -/
abbrev StatusLegal (s : State) : Prop :=
  (s.busy = true → s.done = false ∧ s.errCmd = false) ∧
  (s.errCmd = true → s.done = false ∧ s.errBusy = false) ∧
  (s.errBusy = true → s.busy = true ∨ s.done = true) ∧
  s.faultTopbit = false

/-- The range of `OUT` that every command's result and reset stay in (10_state.md R23). -/
abbrev OutInRange (s : State) : Prop :=
  s.out.l0.toNat ≤ 2251799813840876 ∧ s.out.l1.toNat ≤ 2251799813693438 ∧ s.out.l2.toNat ≤ 2251799813693438 ∧
  s.out.l3.toNat ≤ 2251799813693438 ∧ s.out.l4.toNat ≤ 2251799813693438

/-- `OBW` holds a canonical encoding: an integer below p (42_canonical_encoder.md R140, R152). -/
abbrev EncodingCanonical (s : State) : Prop := s.obw.value < Config.fieldPrime

/-- The invariant that holds at reset and that every step keeps. -/
abbrev Inv (s : State) : Prop :=
  StatusLegal s ∧ OutInRange s ∧ EncodingCanonical s ∧ VarsWf s.hostVars

/-- Every engine field has its reset value (10_state.md R38). -/
abbrev EngineAtReset (s : State) : Prop :=
  s.inp = ⟨0, 0, 0, 0, 0⟩ ∧ s.out = ⟨0, 0, 0, 0, 0⟩ ∧ s.obw = ⟨0, 0, 0, 0⟩ ∧ s.done = false ∧ s.errCmd = false ∧
  s.errBusy = false ∧ s.faultTopbit = false ∧ s.pend = none ∧ s.latch = ⟨0, 0, 0, 0, 0⟩

/-- Two states agree on every engine field (10_state.md R39). -/
abbrev EngineSame (s t : State) : Prop :=
  t.inp = s.inp ∧ t.out = s.out ∧ t.obw = s.obw ∧ t.done = s.done ∧ t.errCmd = s.errCmd ∧ t.errBusy = s.errBusy ∧
  t.faultTopbit = s.faultTopbit ∧ t.pend = s.pend ∧ t.latch = s.latch

/-- Two states agree on the host, the schedule and the model's counter. -/
abbrev HostSame (s t : State) : Prop :=
  t.hostProg = s.hostProg ∧ t.hostPc = s.hostPc ∧ t.hostHalted = s.hostHalted ∧ t.hostVars = s.hostVars ∧
  t.sched = s.sched ∧ t.freeCount = s.freeCount

/-- Two states agree on the control state that must not depend on limb values (70_reset_and_hazards.md R213):
the status fields and the pending command. -/
abbrev ControlSame (s t : State) : Prop :=
  t.done = s.done ∧ t.errCmd = s.errCmd ∧ t.errBusy = s.errBusy ∧ t.faultTopbit = s.faultTopbit ∧ t.pend = s.pend

/-- Every limb is below 2^51. -/
abbrev LimbsBelow51 (l : Limbs) : Prop :=
  l.l0.toNat < 2 ^ 51 ∧ l.l1.toNat < 2 ^ 51 ∧ l.l2.toNat < 2 ^ 51 ∧ l.l3.toNat < 2 ^ 51 ∧ l.l4.toNat < 2 ^ 51

end Sys2Proof.Safety
end

