-- ==== Sys2Proof/Certificates/Slice0/Obligations.lean ====
section
/-! DEFINITION. The statements for the provers. -/

open Sys2Proof Sys2Proof.Machine Sys2Proof.Safety

/-! ## Encoding -/

/-- 30_encoding.md R83: decoding as a function of the whole word, all 64 bits compared. -/
def Obligations.DecodeComparesAllSixtyFourBits : Prop :=
  ∀ v : Word,
    (decodeCommand v = .ok .reduce ↔ v = 0x0000000000000001) ∧
    (decodeCommand v = .ok .encode ↔ v = 0x0000000000000002) ∧
    ((∃ e, decodeCommand v = .error e) ↔ v ≠ 0x0000000000000001 ∧ v ≠ 0x0000000000000002) ∧
    (decodeCommand v = .ok .reduce ↔ v &&& 0xFFFFFFFFFFFFFFFF = 0x1) ∧
    (decodeCommand v = .ok .encode ↔ v &&& 0xFFFFFFFFFFFFFFFF = 0x2)

/-- 30_encoding.md R82: the opcode map, on the integers OP = v mod 256 and RSVD = v / 256. -/
def Obligations.OpcodeMapByFields : Prop :=
  ∀ v : Word,
    (v.toNat % 256 = 1 → v.toNat / 256 = 0 → decodeCommand v = .ok .reduce) ∧
    (v.toNat % 256 = 2 → v.toNat / 256 = 0 → decodeCommand v = .ok .encode) ∧
    (v.toNat % 256 = 0 ∨ 3 ≤ v.toNat % 256 →
      decodeCommand v = .error (.reservedOpcode (BitVec.ofNat 8 (v.toNat % 256)))) ∧
    (v.toNat % 256 = 1 ∨ v.toNat % 256 = 2 → v.toNat / 256 ≠ 0 → decodeCommand v = .error .reservedBitsSet) ∧
    ((∃ i, decodeCommand v = .ok i) ↔ v = 0x0000000000000001 ∨ v = 0x0000000000000002)

/-- Decoder and encoder are inverse on every byte string: no other bytes decode to a command. -/
def Obligations.DecodeBytesInvertsEncodeBytes : Prop :=
  ∀ (bs : List Byte) (i : Instr), decodeBytes bs = .ok i ↔ i.wf = true ∧ bs = encodeBytes i

/-- Words written out from the opcode table decode to their rows, and neighbours of them do not. -/
def Obligations.TableWordsDecode : Prop :=
  decodeTableWord 64 0x0000000000000001 = some .reduce ∧ decodeTableWord 64 0x0000000000000002 = some .encode ∧
  decodeTableWord 64 0x0000000000000000 = none ∧ decodeTableWord 64 0x0000000000000003 = none ∧
  decodeTableWord 64 0x0000000000000101 = none ∧ decodeTableWord 64 0x0000000100000001 = none ∧
  decodeTableWord 64 0xFFFFFFFFFFFFFFFF = none

/-! ## The Limb Reducer -/

/-- 41_limb_reducer.md R121, R124, R126: `reduce` on exact integers, the carry bound and the absence of overflow. -/
def Obligations.ReduceIsExactCarryPass : Prop :=
  ∀ l : Limbs,
    let c (x : Word) : Nat := x.toNat / 2 ^ 51
    let m (x : Word) : Nat := x.toNat % 2 ^ 51
    (∀ x : Word, c x ≤ (2 ^ 64 - 1) / 2 ^ 51) ∧ (2 ^ 64 - 1) / 2 ^ 51 = 2 ^ 13 - 1 ∧ 19 * c l.l4 ≤ 155629 ∧
    (weakReduce l).l0.toNat = m l.l0 + 19 * c l.l4 ∧
    (weakReduce l).l1.toNat = m l.l1 + c l.l0 ∧
    (weakReduce l).l2.toNat = m l.l2 + c l.l1 ∧
    (weakReduce l).l3.toNat = m l.l3 + c l.l2 ∧
    (weakReduce l).l4.toNat = m l.l4 + c l.l3 ∧
    (∀ i : Fin 5, ((weakReduce l).get i).toNat ≤ 2251799813840876) ∧ 2251799813840876 < 2 ^ 52

/-- 41_limb_reducer.md R125: the output bounds, and the input that reaches all of them at once. -/
def Obligations.ReduceOutputBounds : Prop :=
  (∀ l : Limbs,
    (weakReduce l).l0.toNat ≤ (2 ^ 51 - 1) + 19 * (2 ^ 13 - 1) ∧
    (∀ i : Fin 5, i ≠ 0 → ((weakReduce l).get i).toNat ≤ (2 ^ 51 - 1) + (2 ^ 13 - 1))) ∧
  (2 ^ 51 - 1) + 19 * (2 ^ 13 - 1) = 2251799813840876 ∧ 2251799813840876 < 2 ^ 51 + 19 * 2 ^ 13 ∧
  (2 ^ 51 - 1) + (2 ^ 13 - 1) = 2251799813693438 ∧ 2251799813693438 < 2 ^ 51 + 2 ^ 13 ∧
  weakReduce ⟨0xFFFFFFFFFFFFFFFF, 0xFFFFFFFFFFFFFFFF, 0xFFFFFFFFFFFFFFFF, 0xFFFFFFFFFFFFFFFF, 0xFFFFFFFFFFFFFFFF⟩ =
    ⟨2251799813840876, 2251799813693438, 2251799813693438, 2251799813693438, 2251799813693438⟩

/-- 41_limb_reducer.md R127: the values before and after differ by exactly c4 times p. -/
def Obligations.ReduceSubtractsMultipleOfPrime : Prop :=
  ∀ l : Limbs,
    l.value = (weakReduce l).value + l.l4.toNat / 2 ^ 51 * (2 ^ 255 - 19) ∧
    (weakReduce l).value % (2 ^ 255 - 19) = l.value % (2 ^ 255 - 19)

/-- 41_limb_reducer.md R128: the result is below 2p and may still be at least p. -/
def Obligations.ReduceValueBelowTwicePrime : Prop :=
  (∀ l : Limbs,
    (weakReduce l).value ≤ 0x8000000001fff0000000003ffe0000000007ffc000000000fff8000000025fec) ∧
  0x8000000001fff0000000003ffe0000000007ffc000000000fff8000000025fec < 2 ^ 255 + 2 ^ 217 ∧
  2 ^ 255 + 2 ^ 217 < 2 * (2 ^ 255 - 19) ∧ 2 * (2 ^ 255 - 19) = 2 ^ 256 - 38 ∧
  (let p : Limbs := ⟨2251799813685229, 2251799813685247, 2251799813685247, 2251799813685247, 2251799813685247⟩
   p.value = 2 ^ 255 - 19 ∧ weakReduce p = p)

/-- 41_limb_reducer.md R129: arrays below 2^51 are fixed points, and `reduce` is not idempotent. -/
def Obligations.ReduceFixesArraysBelow51 : Prop :=
  (∀ l : Limbs, LimbsBelow51 l → (∀ i : Fin 5, carryOf (l.get i) = 0) ∧ weakReduce l = l) ∧
  (let x := weakReduce
    ⟨0xFFFFFFFFFFFFFFFF, 0xFFFFFFFFFFFFFFFF, 0xFFFFFFFFFFFFFFFF, 0xFFFFFFFFFFFFFFFF, 0xFFFFFFFFFFFFFFFF⟩
   x = ⟨2251799813840876, 2251799813693438, 2251799813693438, 2251799813693438, 2251799813693438⟩ ∧
   weakReduce x = ⟨155647, 8191, 8191, 8191, 8191⟩)

/-- 41_limb_reducer.md R122, R130: one parallel pass. Limb 1 receives limb 0's carry and does not carry on within the
pass, and output lane i reads lanes i and i - 1 alone (lane 4 for lane 0). -/
def Obligations.ReduceLanesAreParallel : Prop :=
  weakReduce ⟨2251799813685248, 2251799813685247, 0, 0, 0⟩ = ⟨0, 2251799813685248, 0, 0, 0⟩ ∧
  ∀ (l k : Limbs) (i : Fin 5), l.get i = k.get i → l.get (i - 1) = k.get (i - 1) →
    (weakReduce l).get i = (weakReduce k).get i

/-! ## The Canonical Encoder -/

/-- 42_canonical_encoder.md R143, R144: the ripple computes floor((h + 19) / 2^255), which is 1 exactly when h is at
least p, and every running carry is 0 or 1. -/
def Obligations.QuotientBitDetectsPrime : Prop :=
  ∀ l : Limbs,
    let h := weakReduce l
    let q := (quotientBit h).toNat
    let c0 := (h.l0.toNat + 19) / 2 ^ 51
    let c1 := (h.l1.toNat + c0) / 2 ^ 51
    let c2 := (h.l2.toNat + c1) / 2 ^ 51
    let c3 := (h.l3.toNat + c2) / 2 ^ 51
    let c4 := (h.l4.toNat + c3) / 2 ^ 51
    q = c4 ∧ q = (h.value + 19) / 2 ^ 255 ∧
    (∃ s : Limbs, LimbsBelow51 s ∧ s.value < 2 ^ 255 ∧ h.value + 19 = s.value + q * 2 ^ 255) ∧
    (q = 1 ↔ 2 ^ 255 - 19 ≤ h.value) ∧ (q = 0 ∨ q = 1) ∧
    h.value + 19 < 2 ^ 255 + 2 ^ 217 + 19 ∧ 2 ^ 255 + 2 ^ 217 + 19 < 2 ^ 256 ∧
    c0 ≤ 1 ∧ c1 ≤ 1 ∧ c2 ≤ 1 ∧ c3 ≤ 1 ∧ c4 ≤ 1 ∧
    h.l0.toNat + 19 ≤ 2251799813840876 + 19 ∧ h.l1.toNat + c0 ≤ 2251799813840876 + 19 ∧
    h.l2.toNat + c1 ≤ 2251799813840876 + 19 ∧ h.l3.toNat + c2 ≤ 2251799813840876 + 19 ∧
    h.l4.toNat + c3 ≤ 2251799813840876 + 19 ∧ 2251799813840876 + 19 < 2 ^ 52

/-- 42_canonical_encoder.md R147: the carry that step 3 discards is q, and the limbs before that mask hold h + 19q. -/
def Obligations.DiscardedCarryIsQuotientBit : Prop :=
  ∀ l : Limbs,
    let h := weakReduce l
    let q := quotientBit h
    let t := rippleSums h q
    discardedCarry h q = q ∧
    t.l0.toNat % 2 ^ 51 + t.l1.toNat % 2 ^ 51 * 2 ^ 51 + t.l2.toNat % 2 ^ 51 * 2 ^ 102 +
      t.l3.toNat % 2 ^ 51 * 2 ^ 153 + t.l4.toNat * 2 ^ 204 = h.value + 19 * q.toNat ∧
    (q = 1 → 2 ^ 255 ≤ h.value + 19 ∧ h.value + 19 < 2 ^ 256) ∧
    (q = 0 → h.value < 2 ^ 255 - 19 ∧ (2 ^ 255 - 19 : Nat) < 2 ^ 255)

/-- 42_canonical_encoder.md R149, R151: step 3 gives h - qp in limbs below 2^51, which is also (h + 19q) mod 2^255, and
no other such limbs have that value. -/
def Obligations.SubtractPrimeGivesRemainder : Prop :=
  ∀ l : Limbs,
    let h := weakReduce l
    let q := quotientBit h
    let t := subtractPrime h q
    LimbsBelow51 t ∧ t.value + q.toNat * (2 ^ 255 - 19) = h.value ∧ t.value < 2 ^ 255 - 19 ∧
    t.value = (h.value + 19 * q.toNat) % 2 ^ 255 ∧
    ∀ x : Limbs, LimbsBelow51 x → x.value = (h.value + 19 * q.toNat) % 2 ^ 255 → x = t

/-- 42_canonical_encoder.md R150: every sum of step 3 is its exact integer sum and below 2^52. -/
def Obligations.RippleSumsAreExact : Prop :=
  ∀ l : Limbs,
    let h := weakReduce l
    let q := quotientBit h
    let t := rippleSums h q
    t.l0.toNat = h.l0.toNat + 19 * q.toNat ∧ t.l0.toNat ≤ 2251799813840876 + 19 ∧
    t.l1.toNat = h.l1.toNat + t.l0.toNat / 2 ^ 51 ∧ t.l1.toNat ≤ 2251799813693438 + 1 ∧
    t.l2.toNat = h.l2.toNat + t.l1.toNat / 2 ^ 51 ∧ t.l2.toNat ≤ 2251799813693438 + 1 ∧
    t.l3.toNat = h.l3.toNat + t.l2.toNat / 2 ^ 51 ∧ t.l3.toNat ≤ 2251799813693438 + 1 ∧
    t.l4.toNat = h.l4.toNat + t.l3.toNat / 2 ^ 51 ∧ t.l4.toNat ≤ 2251799813693438 + 1 ∧
    2251799813840876 + 19 < 2 ^ 52

/-- 42_canonical_encoder.md R152: the encoder computes the least non-negative residue, in limbs and in bytes. -/
def Obligations.EncodeIsLeastResidue : Prop :=
  ∀ l : Limbs,
    (canonicalEncode l).limbs.value = l.value % (2 ^ 255 - 19) ∧
    (canonicalEncode l).bytes.length = 32 ∧
    bytesValue (canonicalEncode l).bytes = l.value % (2 ^ 255 - 19) ∧
    bytesValue (canonicalEncode l).bytes < 2 ^ 255 - 19

/-- 42_canonical_encoder.md R154, and its converse: two inputs get the same limbs and bytes exactly when their values
agree modulo p. -/
def Obligations.EncodingUniqueIffCongruent : Prop :=
  ∀ l k : Limbs,
    (l.value % (2 ^ 255 - 19) = k.value % (2 ^ 255 - 19) → canonicalEncode l = canonicalEncode k) ∧
    ((canonicalEncode l).bytes = (canonicalEncode k).bytes →
      l.value % (2 ^ 255 - 19) = k.value % (2 ^ 255 - 19))

/-- 42_canonical_encoder.md R155: N is the value of the limbs, its bit 255 is 0, byte j is bits [8j+7 : 8j] of N, and the
limbs' bit ranges are disjoint. -/
def Obligations.PackingIsLittleEndianValue : Prop :=
  ∀ t : Limbs, LimbsBelow51 t →
    (packLimbs t).toNat = t.value ∧ (packLimbs t).getLsbD 255 = false ∧
    (unpackBytes (packLimbs t)).length = 32 ∧
    (∀ j < 32, ((unpackBytes (packLimbs t)).getD j 0).toNat = t.value / 2 ^ (8 * j) % 256) ∧
    (∀ b < 51, (packLimbs t).getLsbD b = t.l0.getLsbD b ∧ (packLimbs t).getLsbD (51 + b) = t.l1.getLsbD b ∧
      (packLimbs t).getLsbD (102 + b) = t.l2.getLsbD b ∧ (packLimbs t).getLsbD (153 + b) = t.l3.getLsbD b ∧
      (packLimbs t).getLsbD (204 + b) = t.l4.getLsbD b)

/-- 42_canonical_encoder.md R156: the byte-by-byte form of packing. -/
def Obligations.PackingByteTable : Prop :=
  ∀ t : Limbs, LimbsBelow51 t →
    (unpackBytes (packLimbs t)) =
      ([t.l0, t.l0 >>> 8, t.l0 >>> 16, t.l0 >>> 24, t.l0 >>> 32, t.l0 >>> 40,
        (t.l0 >>> 48) ||| (t.l1 <<< 3),
        t.l1 >>> 5, t.l1 >>> 13, t.l1 >>> 21, t.l1 >>> 29, t.l1 >>> 37,
        (t.l1 >>> 45) ||| (t.l2 <<< 6),
        t.l2 >>> 2, t.l2 >>> 10, t.l2 >>> 18, t.l2 >>> 26, t.l2 >>> 34, t.l2 >>> 42,
        (t.l2 >>> 50) ||| (t.l3 <<< 1),
        t.l3 >>> 7, t.l3 >>> 15, t.l3 >>> 23, t.l3 >>> 31, t.l3 >>> 39,
        (t.l3 >>> 47) ||| (t.l4 <<< 4),
        t.l4 >>> 4, t.l4 >>> 12, t.l4 >>> 20, t.l4 >>> 28, t.l4 >>> 36, t.l4 >>> 44] : List Word).map
        (fun x => x.setWidth 8)

/-- 42_canonical_encoder.md R157: the check bit is the top bit of byte 31, that byte is t4 >> 44 and below 2^7, and the
check never fails, so an ENCODE never changes FAULT_TOPBIT. -/
def Obligations.TopBitCheckNeverFails : Prop :=
  (∀ l : Limbs,
    (canonicalEncode l).top = ((canonicalEncode l).bytes.getD 31 0).getLsbD 7 ∧
    ((canonicalEncode l).bytes.getD 31 0).toNat = (canonicalEncode l).limbs.l4.toNat / 2 ^ 44 ∧
    ((canonicalEncode l).bytes.getD 31 0).toNat < 2 ^ 7 ∧ (canonicalEncode l).top = false) ∧
  ∀ s t : State, exec .encode s = .next t → t.faultTopbit = s.faultTopbit

/-- 42_canonical_encoder.md R161: encoding the canonical limbs again changes nothing, as a function and as a command on
the OUT of an ENCODE. -/
def Obligations.EncodeIsIdempotent : Prop :=
  (∀ l : Limbs,
    let t := (canonicalEncode l).limbs
    LimbsBelow51 t ∧ weakReduce t = t ∧ t.value ≤ 2 ^ 255 - 20 ∧ t.value + 19 < 2 ^ 255 ∧ quotientBit t = 0 ∧
    subtractPrime t 0 = t ∧ canonicalEncode t = canonicalEncode l) ∧
  ∀ s t : State, exec .encode s = .next t →
    ∃ r, exec .encode { t with latch := t.out } = .next r ∧ r.out = t.out ∧ r.obw = t.obw

/-- 42_canonical_encoder.md R160 and 95_test_vectors.md S1 to S5: the boundary cases p, p - 1, p + 1, p + 18 and the
worked examples. -/
def Obligations.EncodeBoundaryCases : Prop :=
  byteWords (canonicalEncode ⟨2251799813685229, 2251799813685247, 2251799813685247, 2251799813685247,
    2251799813685247⟩).bytes = ⟨0, 0, 0, 0⟩ ∧
  byteWords (canonicalEncode ⟨2251799813685228, 2251799813685247, 2251799813685247, 2251799813685247,
    2251799813685247⟩).bytes =
    ⟨0xFFFFFFFFFFFFFFEC, 0xFFFFFFFFFFFFFFFF, 0xFFFFFFFFFFFFFFFF, 0x7FFFFFFFFFFFFFFF⟩ ∧
  byteWords (canonicalEncode ⟨2251799813685230, 2251799813685247, 2251799813685247, 2251799813685247,
    2251799813685247⟩).bytes = ⟨1, 0, 0, 0⟩ ∧
  byteWords (canonicalEncode ⟨2251799813685247, 2251799813685247, 2251799813685247, 2251799813685247,
    2251799813685247⟩).bytes = ⟨0x12, 0, 0, 0⟩ ∧
  byteWords (canonicalEncode ⟨1, 0, 0, 0, 0⟩).bytes = ⟨1, 0, 0, 0⟩ ∧
  byteWords (canonicalEncode ⟨121666, 0, 0, 0, 0⟩).bytes = ⟨0x1DB42, 0, 0, 0⟩

/-! ## The two commands -/

/-- REDUCE completes in every state (41_limb_reducer.md R135, completion): OUT takes the five reduced limbs of LATCH,
PEND is NONE, DONE is 1, and its value differs from LATCH's by c4 times p. -/
def Obligations.ReduceCommandCompletes : Prop :=
  ∀ s : State, ∃ t : State, exec .reduce s = .next t ∧
    t.out.l0.toNat = s.latch.l0.toNat % 2 ^ 51 + 19 * (s.latch.l4.toNat / 2 ^ 51) ∧
    t.out.l1.toNat = s.latch.l1.toNat % 2 ^ 51 + s.latch.l0.toNat / 2 ^ 51 ∧
    t.out.l2.toNat = s.latch.l2.toNat % 2 ^ 51 + s.latch.l1.toNat / 2 ^ 51 ∧
    t.out.l3.toNat = s.latch.l3.toNat % 2 ^ 51 + s.latch.l2.toNat / 2 ^ 51 ∧
    t.out.l4.toNat = s.latch.l4.toNat % 2 ^ 51 + s.latch.l3.toNat / 2 ^ 51 ∧
    t.out.value + s.latch.l4.toNat / 2 ^ 51 * (2 ^ 255 - 19) = s.latch.value ∧
    t.obw = s.obw ∧ t.pend = none ∧ t.done = true

/-- ENCODE completes in every state (42_canonical_encoder.md R160, completion): OUT takes the canonical limbs and OBW the
32 little-endian bytes of the least residue of LATCH modulo p, PEND is NONE and DONE is 1. -/
def Obligations.EncodeCommandCompletes : Prop :=
  ∀ s : State, ∃ t : State, exec .encode s = .next t ∧
    LimbsBelow51 t.out ∧ t.out.value = s.latch.value % (2 ^ 255 - 19) ∧
    t.obw.value = s.latch.value % (2 ^ 255 - 19) ∧
    (∀ j : Fin 32, (t.obw.byteAt j).toNat = s.latch.value % (2 ^ 255 - 19) / 2 ^ (8 * j.val) % 256) ∧
    (t.obw.byteAt 31).getLsbD 7 = false ∧
    t.pend = none ∧ t.done = true ∧ t.faultTopbit = s.faultTopbit

/-- What a command's completion leaves unchanged: IN, LATCH, ERR_CMD, ERR_BUSY, FAULT_TOPBIT, the host, every STATUS bit
but BUSY and DONE, and every byte of the window but STATUS, OUT and, for ENCODE, OBW. -/
def Obligations.CommandFrame : Prop :=
  ∀ (i : Instr) (s t : State), exec i s = .next t →
    t.inp = s.inp ∧ t.latch = s.latch ∧ t.errCmd = s.errCmd ∧ t.errBusy = s.errBusy ∧
    t.faultTopbit = s.faultTopbit ∧ HostSame s t ∧ (i = .reduce → t.obw = s.obw) ∧
    (∀ b, 2 ≤ b → t.statusWord.getLsbD b = s.statusWord.getLsbD b) ∧
    (∀ off, ¬ (0x30 ≤ off ∧ off < 0x38) → ¬ (0x40 ≤ off ∧ off < 0x68) →
      (i = .reduce ∨ ¬ (0x80 ≤ off ∧ off < 0xA0)) → t.windowByte off = s.windowByte off)

/-- 40_command_protocol.md R106: what the engine's completion step writes. It is enabled exactly when a command is pending;
that an engine turn without one changes nothing is the model's choice (log 4). -/
def Obligations.CompletionStep : Prop :=
  ∀ s u : State, s.takeTurn = (.engine, u) →
    (u.pend = none → step s = .next u) ∧
    (u.pend = some .reduce →
      step s = .next { u with out := weakReduce u.latch, pend := none, done := true }) ∧
    (u.pend = some .encode →
      let e := canonicalEncode u.latch
      let b (j : Nat) : Word := (e.bytes.getD j 0).setWidth 64
      let w (k : Nat) : Word := b (8 * k) ||| b (8 * k + 1) <<< 8 ||| b (8 * k + 2) <<< 16 ||| b (8 * k + 3) <<< 24 |||
        b (8 * k + 4) <<< 32 ||| b (8 * k + 5) <<< 40 ||| b (8 * k + 6) <<< 48 ||| b (8 * k + 7) <<< 56
      step s = .next { u with
        out := e.limbs, obw := ⟨w 0, w 1, w 2, w 3⟩, faultTopbit := if e.top = true then true else u.faultTopbit,
        pend := none, done := true })

/-- A step runs the decoded command: a CMD write of a word that decodes to i, while idle, makes i pending on the operands
of IN, and the engine's next turn is `exec i`. That the effect of `exec` is the completion is the model's choice
(log 1, 2). -/
def Obligations.StepRunsDecodedCommand : Prop :=
  (∀ (s u : State) (v : Word) (i : Instr) (rest : List Turn),
    s.takeTurn = (.host, u) → u.currentStmt = some (.wr .cmd v) → u.pend = none → decodeCommand v = .ok i →
    u.sched = .engine :: rest →
    ∃ s₁, step s = .next s₁ ∧ s₁.pend = some i ∧ s₁.latch = s.inp ∧ step s₁ = exec i { s₁ with sched := rest }) ∧
  ∀ (s u : State) (i : Instr), s.takeTurn = (.engine, u) → u.pend = some i → step s = exec i u

/-! ## The command protocol -/

/-- 40_command_protocol.md R101: acceptance. -/
def Obligations.CommandAccepted : Prop :=
  ∀ (s u : State) (v : Word) (i : Instr),
    s.takeTurn = (.host, u) → u.currentStmt = some (.wr .cmd v) → u.pend = none → decodeCommand v = .ok i →
    ∃ t, step s = .next t ∧ t.latch = s.inp ∧ t.pend = some i ∧ t.statusWord.getLsbD 0 = true ∧
      t.done = false ∧ t.errCmd = false ∧ t.errBusy = false ∧ t.inp = s.inp ∧ t.out = s.out ∧ t.obw = s.obw ∧
      t.faultTopbit = s.faultTopbit ∧ t.hostPc = s.hostPc + 1 ∧ t.hostVars = s.hostVars ∧
      (s.faultTopbit = false → t.statusWord = 0x1) ∧
      ∀ x : Limbs, ∃ r, exec i { t with inp := x } = .next r ∧
        (i = .reduce → r.out = weakReduce s.inp) ∧ (i = .encode → r.out = (canonicalEncode s.inp).limbs)

/-- 40_command_protocol.md R102: an illegal command while idle starts nothing and sets ERR_CMD; no bus error. -/
def Obligations.IllegalCommandWhileIdle : Prop :=
  ∀ (s u : State) (v : Word) (e : IllegalCommand),
    s.takeTurn = (.host, u) → u.currentStmt = some (.wr .cmd v) → u.pend = none → decodeCommand v = .error e →
    ∃ t, step s = .next t ∧ t.pend = none ∧ t.done = false ∧ t.errCmd = true ∧ t.errBusy = false ∧
      t.latch = s.latch ∧ t.out = s.out ∧ t.obw = s.obw ∧ t.inp = s.inp ∧ t.faultTopbit = s.faultTopbit ∧
      (s.faultTopbit = false → t.statusWord = 0x4)

/-- 40_command_protocol.md R103 and 60_exceptions.md R186: a CMD write while busy is dropped, whatever its word. -/
def Obligations.CommandWhileBusyDropped : Prop :=
  ∀ (s u : State) (v : Word) (i : Instr),
    s.takeTurn = (.host, u) → u.currentStmt = some (.wr .cmd v) → u.pend = some i →
    ∃ t, step s = .next t ∧ EngineSame { s with errBusy := true } t ∧ t.hostPc = s.hostPc + 1 ∧
      (s.done = false → s.errCmd = false → s.faultTopbit = false →
        t.statusWord = 0x9 ∧ ∃ r, exec i t = .next r ∧ r.statusWord = 0xA)

/-- 40_command_protocol.md R104: an IN write while busy changes IN[k] at once and not the pending command's result. -/
def Obligations.InWriteWhileBusy : Prop :=
  ∀ (s u : State) (k : Fin 5) (v : Word) (i : Instr),
    s.takeTurn = (.host, u) → u.currentStmt = some (.wr (.inLimb k) v) → u.pend = some i →
    ∃ t, step s = .next t ∧ t.inp.get k = v ∧ (∀ j, j ≠ k → t.inp.get j = s.inp.get j) ∧
      EngineSame { s with inp := t.inp } t ∧
      ∃ r r', exec i s = .next r ∧ exec i t = .next r' ∧ r'.out = r.out ∧ r'.obw = r.obw ∧
        r'.faultTopbit = r.faultTopbit

/-- 40_command_protocol.md R105: what the host reads while a command is pending, in states of the invariant. -/
def Obligations.StatusReadsBusyNotDone : Prop :=
  ∀ (s : State) (i : Instr), Inv s → s.pend = some i →
    (∀ r w, s.readReg r = some w → s.readWindow r.offset 8 = .data w) ∧
    (∃ w, s.readWindow 0x30 8 = .data w ∧ w.getLsbD 0 = true ∧ w.getLsbD 1 = false) ∧
    ∀ t u, s.takeTurn = (.host, u) → step s = .next t →
      (∀ k : Fin 5, t.readWindow (0x40 + 8 * k.val) 8 = s.readWindow (0x40 + 8 * k.val) 8) ∧
      (∀ k : Fin 4, t.readWindow (0x80 + 8 * k.val) 8 = s.readWindow (0x80 + 8 * k.val) 8)

/-- 70_reset_and_hazards.md R207, 40_command_protocol.md R110: two CMD writes in a row have both outcomes, according to
where the completion falls: the second command dropped, or the second command accepted. -/
def Obligations.BackToBackCommandsHaveBothOutcomes : Prop :=
  ∀ (s : State) (i j : Instr) (rest : List Turn),
    s.pend = none → s.hostHalted = false → s.hostProg[s.hostPc]? = some (.wr .cmd (encode i)) →
    s.hostProg[s.hostPc + 1]? = some (.wr .cmd (encode j)) →
    (∃ s₁ s₂ t r, step { s with sched := .host :: .host :: .engine :: rest } = .next s₁ ∧ step s₁ = .next s₂ ∧
      step s₂ = .next t ∧
      exec i { s with latch := s.inp } = .next r ∧
      t.pend = none ∧ t.done = true ∧ t.errBusy = true ∧ t.out = r.out ∧ t.obw = r.obw ∧ t.sched = rest) ∧
    (∃ s₁ s₂ t r, step { s with sched := .host :: .engine :: .host :: rest } = .next s₁ ∧ step s₁ = .next s₂ ∧
      step s₂ = .next t ∧
      exec i { s with latch := s.inp } = .next r ∧
      t.pend = some j ∧ t.done = false ∧ t.errBusy = false ∧ t.out = r.out ∧ t.obw = r.obw ∧ t.sched = rest)

/-- One command from its CMD write to its results: the write of a command word while idle, then the engine's turn, leave
the results computed from IN, and STATUS showing DONE alone. -/
def Obligations.CommandComputesFromIn : Prop :=
  ∀ (s u : State) (i : Instr) (rest : List Turn),
    s.takeTurn = (.host, u) → u.currentStmt = some (.wr .cmd (encode i)) → u.pend = none → u.faultTopbit = false →
    u.sched = .engine :: rest →
    ∃ s₁ t, step s = .next s₁ ∧ s₁.statusWord = 0x1 ∧ s₁.out = s.out ∧ s₁.obw = s.obw ∧ step s₁ = .next t ∧
      t.statusWord = 0x2 ∧ t.inp = s.inp ∧ t.out.value % (2 ^ 255 - 19) = s.inp.value % (2 ^ 255 - 19) ∧
      (i = .reduce → t.out = weakReduce s.inp ∧ t.obw = s.obw) ∧
      (i = .encode → t.out.value < 2 ^ 255 - 19 ∧ t.obw.value = t.out.value)

/-- 40_command_protocol.md R107: host turns neither stop nor change a pending command. After any number of them that
answer a next state, the engine completes it with the result it had at the start. That the engine moves when the schedule
is used up is the model's choice (log 3), its form of the weak fairness of 00_scope.md R13. -/
def Obligations.HostTurnsCannotStopCompletion : Prop :=
  ∀ (n : Nat) (s t r : State) (i : Instr),
    s.sched = List.replicate n .host → s.pend = some i → exec i s = .next r →
    Host.Core.run core (n + 1) s = .next t →
    t.pend = none ∧ t.done = true ∧ t.out = r.out ∧ t.obw = r.obw ∧ t.faultTopbit = r.faultTopbit ∧ t.sched = []

/-- What a host turn can change: never OUT, OBW, FAULT_TOPBIT or the program; with a command pending, of the engine only
IN and ERR_BUSY; and nothing of the engine unless the statement is a write. -/
def Obligations.HostTurnFrame : Prop :=
  ∀ s u t : State, s.takeTurn = (.host, u) → step s = .next t →
    t.out = s.out ∧ t.obw = s.obw ∧ t.faultTopbit = s.faultTopbit ∧ t.hostProg = s.hostProg ∧ t.sched = u.sched ∧
    t.freeCount = s.freeCount ∧
    (∀ i, s.pend = some i → t.pend = some i ∧ t.latch = s.latch ∧ t.done = s.done ∧ t.errCmd = s.errCmd) ∧
    ((∀ r v, u.currentStmt ≠ some (.wr r v)) → (∀ r x, u.currentStmt ≠ some (.wrVar r x)) →
      (∀ a n v, u.currentStmt ≠ some (.memWrite a n v)) → EngineSame s t)

/-- 60_exceptions.md R187: completion precedes a host access of the same cycle. -/
def Obligations.SameCycleCompletionFirst : Prop :=
  ∀ (s u r : State) (i : Instr),
    s.takeTurn = (.engineThenHost, u) → u.pend = some i → exec i u = .next r →
    step s = hostTurn r ∧ r.pend = none ∧ r.done = true ∧
    (∀ x, u.currentStmt = some (.rd .status x) → ∃ t, step s = .next t ∧ EngineSame r t ∧
      (t.var x).getLsbD 0 = false ∧ (t.var x).getLsbD 1 = true) ∧
    (∀ v j, u.currentStmt = some (.wr .cmd v) → decodeCommand v = .ok j →
      ∃ t, step s = .next t ∧ t.pend = some j ∧ t.latch = u.inp ∧ t.done = false ∧ t.out = r.out ∧ t.obw = r.obw) ∧
    (∀ v e, u.currentStmt = some (.wr .cmd v) → decodeCommand v = .error e →
      ∃ t, step s = .next t ∧ t.pend = none ∧ t.errCmd = true ∧ t.out = r.out ∧ t.obw = r.obw)

/-! ## Reset -/

/-- 10_state.md R38, 70_reset_and_hazards.md R202: the engine after reset is idle with every field at its reset value. -/
def Obligations.EngineIdleAfterReset : Prop :=
  EngineAtReset State.reset ∧ State.reset.statusWord = 0 ∧
  State.reset.obw = byteWords (canonicalEncode ⟨0, 0, 0, 0, 0⟩).bytes ∧
  State.reset.out = weakReduce ⟨0, 0, 0, 0, 0⟩

/-- 70_reset_and_hazards.md R200: a reset turn sets every engine field to its reset value and abandons a pending command,
whose completion is then no longer enabled. That the host is left as it is, and that an engine turn which is not enabled
changes nothing, are the model's choices (log 14, 4). -/
def Obligations.ResetTurn : Prop :=
  ∀ s u : State, s.takeTurn = (.reset, u) →
    ∃ t, step s = .next t ∧ EngineAtReset t ∧ HostSame u t ∧ engineTurn t = .next t

/-- 60_exceptions.md R188: a host access or a completion in the reset cycle has no effect on the engine. What a read's
variable takes is left open; the host's other variables keep their values and the host goes on (log 13, 14). -/
def Obligations.ResetOverridesHostAccess : Prop :=
  ∀ (s u : State) (st : HostStmt),
    s.takeTurn = (.resetOverHost, u) → u.currentStmt = some st →
    (∀ r v, st = .wr r v → ∃ t, step s = .next t ∧ EngineAtReset t ∧ t.hostVars = u.hostVars ∧
      t.hostPc = u.hostPc + 1) ∧
    (∀ r x, st = .wrVar r x → ∃ t, step s = .next t ∧ EngineAtReset t ∧ t.hostVars = u.hostVars ∧
      t.hostPc = u.hostPc + 1) ∧
    (∀ r x, st = .rd r x → ∃ t, step s = .next t ∧ EngineAtReset t ∧ (∀ y, y ≠ x → t.var y = u.var y) ∧
      t.hostPc = u.hostPc + 1) ∧
    (∀ t, step s = .next t → EngineAtReset t)

/-- 10_state.md R32, 70_reset_and_hazards.md R200: no step but a reset clears FAULT_TOPBIT, and no step at all sets it. -/
def Obligations.OnlyResetChangesFaultTopbit : Prop :=
  ∀ s t : State, step s = .next t →
    t.faultTopbit = s.faultTopbit ∨
    (t.faultTopbit = false ∧ (s.takeTurn.1 = .reset ∨ s.takeTurn.1 = .resetOverHost))

/-! ## Invariant -/

/-- The invariant holds after reset. -/
def Obligations.InvAtReset : Prop := Inv State.reset

/-- Every step keeps the invariant: the status fields agree with the protocol and FAULT_TOPBIT is never set, OUT stays in
the range of R23, OBW holds an integer below p, and the host's variables keep their canonical form. -/
def Obligations.EveryStepKeepsInv : Prop := ∀ s t : State, Inv s → step s = .next t → Inv t

/-- In states of the invariant, STATUS reads one of the six words the protocol can show. -/
def Obligations.StatusWordsOfInv : Prop :=
  ∀ s : State, Inv s → s.statusWord ∈ ([0x0, 0x1, 0x2, 0x4, 0x9, 0xA] : List Word)

/-! ## Bus -/

/-- 20_memory.md R51: the register map. -/
def Obligations.RegisterMap : Prop :=
  (∀ (off : Nat) (r : WindowReg), WindowReg.at? off = some r ↔ off = r.offset) ∧
  (∀ i : Fin 5, (WindowReg.inLimb i).offset = 0x00 + 8 * i.val ∧ (WindowReg.outLimb i).offset = 0x40 + 8 * i.val) ∧
  WindowReg.cmd.offset = 0x28 ∧ WindowReg.status.offset = 0x30 ∧
  (∀ k : Fin 4, (WindowReg.outBytes k).offset = 0x80 + 8 * k.val) ∧
  (∀ (s : State) (r : WindowReg), (s.readReg r).isSome = true ↔ r ≠ .cmd) ∧
  (∀ r : WindowReg, r.writable = true ↔ r = .cmd ∨ ∃ i, r = .inLimb i)

/-- 20_memory.md R52 to R55 and 60_exceptions.md R185: which accesses are answered with which bus error, in order, and
that every other access is served. -/
def Obligations.BusErrorsInOrder : Prop :=
  ∀ (s : State) (off size : Nat) (v : Word),
    let mapped := off ∈ ([0x00, 0x08, 0x10, 0x18, 0x20, 0x28, 0x30, 0x40, 0x48, 0x50, 0x58, 0x60, 0x80, 0x88, 0x90,
      0x98] : List Nat)
    (size ≠ 8 → s.readWindow off size = .error .width ∧ s.writeWindow off size v = (.error .width, s)) ∧
    (size = 8 → off % 8 ≠ 0 → s.readWindow off size = .error .align ∧ s.writeWindow off size v = (.error .align, s)) ∧
    (size = 8 → off % 8 = 0 → ¬ mapped →
      s.readWindow off size = .error .unmapped ∧ s.writeWindow off size v = (.error .unmapped, s)) ∧
    (size = 8 → off = 0x28 → s.readWindow off size = .error .access) ∧
    (size = 8 → mapped → 0x30 ≤ off → s.writeWindow off size v = (.error .access, s)) ∧
    (size = 8 → mapped → off ≠ 0x28 → ∃ w, s.readWindow off size = .data w) ∧
    (size = 8 → mapped → off ≤ 0x28 → (s.writeWindow off size v).1 = .ack)

/-- 20_memory.md R56: what a permitted read returns, and that a read changes no state. -/
def Obligations.ReadReturnsRegister : Prop :=
  ∀ s : State,
    (∀ k : Fin 5, s.serve (.read (Config.base + 8 * k.val) 8) = (.data (s.inp.get k), s)) ∧
    (∀ k : Fin 5, s.serve (.read (Config.base + 0x40 + 8 * k.val) 8) = (.data (s.out.get k), s)) ∧
    (∀ k : Fin 4, s.serve (.read (Config.base + 0x80 + 8 * k.val) 8) = (.data (s.obw.get k), s)) ∧
    (∃ w, s.serve (.read (Config.base + 0x30) 8) = (.data w, s) ∧
      w.toNat = (if s.faultTopbit then 16 else 0) + (if s.errBusy then 8 else 0) + (if s.errCmd then 4 else 0) +
        (if s.done then 2 else 0) + (if s.pend = none then 0 else 1)) ∧
    ∀ a n, (s.serve (.read a n)).2 = s

/-- 20_memory.md R57 on a permitted write: a write of IN[k] changes only IN[k]; a write of CMD is the CMD write of
40_command_protocol.md R100. -/
def Obligations.WriteChangesRegister : Prop :=
  ∀ (s : State) (v : Word),
    (∀ k : Fin 5, ∃ t, s.serve (.write (Config.base + 8 * k.val) 8 v) = (.ack, t) ∧ t.inp.get k = v ∧
      (∀ j, j ≠ k → t.inp.get j = s.inp.get j) ∧ t = { s with inp := t.inp }) ∧
    s.serve (.write (Config.base + 0x28) 8 v) = (.ack,
      if s.pend ≠ none then { s with errBusy := true }
      else if v = 1 then
        { s with done := false, errCmd := false, errBusy := false, latch := s.inp, pend := some .reduce }
      else if v = 2 then
        { s with done := false, errCmd := false, errBusy := false, latch := s.inp, pend := some .encode }
      else { s with done := false, errCmd := true, errBusy := false })

/-- 60_exceptions.md R182: a bus error leaves the engine's state as it is; the run faults with the kind, address and
size of the access. That the run ends there is the model's choice (log 8). -/
def Obligations.BusErrorIsFaultOfRun : Prop :=
  (∀ (s : State) (a : BusAccess) (k : BusErrorKind), (s.serve a).1 = .error k → (s.serve a).2 = s) ∧
  (∀ (s u : State) (addr n x : Nat) (k : BusErrorKind), s.takeTurn = (.host, u) →
    u.currentStmt = some (.memRead addr n x) → (BusAccess.read addr n).inWindow = true →
    (u.serve (.read addr n)).1 = .error k → step s = .fault (.busError k addr n)) ∧
  (∀ (s u : State) (addr n : Nat) (v : Word) (k : BusErrorKind), s.takeTurn = (.host, u) →
    u.currentStmt = some (.memWrite addr n v) → (BusAccess.write addr n v).inWindow = true →
    (u.serve (.write addr n v)).1 = .error k → step s = .fault (.busError k addr n))

/-- 20_memory.md R63: reads repeat, IN writes are idempotent, CMD writes are not. -/
def Obligations.SideEffectsOfAccesses : Prop :=
  (∀ (s : State) (a n : Nat), (s.serve (.read a n)).2.serve (.read a n) = s.serve (.read a n)) ∧
  (∀ (s : State) (k : Fin 5) (v : Word),
    ((s.serve (.write (Config.base + 8 * k.val) 8 v)).2.serve (.write (Config.base + 8 * k.val) 8 v)).2 =
      (s.serve (.write (Config.base + 8 * k.val) 8 v)).2) ∧
  ∀ (s : State) (i : Instr), s.pend = none → (s.cmdWrite (encode i)).cmdWrite (encode i) ≠ s.cmdWrite (encode i)

/-- 10_state.md R27, R28, R33: the bits of STATUS. -/
def Obligations.StatusFields : Prop :=
  ∀ s : State,
    s.statusWord.getLsbD 0 = decide (s.pend ≠ none) ∧ s.statusWord.getLsbD 1 = s.done ∧
    s.statusWord.getLsbD 2 = s.errCmd ∧ s.statusWord.getLsbD 3 = s.errBusy ∧
    s.statusWord.getLsbD 4 = s.faultTopbit ∧ ∀ b, 5 ≤ b → s.statusWord.getLsbD b = false

/-! ## Host -/

/-- 30_encoding.md R87: what each host statement does on the host's turn, at a register its direction permits; in the
other direction the access is a bus error. A step for each local statement, variables of 64 bits, and a halted host that
changes nothing are the model's choices (log 9, 11, 19). -/
def Obligations.HostStatements : Prop :=
  ∀ s u : State, s.takeTurn = (.host, u) → VarsWf s.hostVars →
    (∀ r v, u.currentStmt = some (.wr r v) →
      step s = if r.writable then .next (u.writeReg v r).advance
        else .fault (.busError .access (Config.base + r.offset) 8)) ∧
    (∀ r x, u.currentStmt = some (.wrVar r x) →
      step s = if r.writable then .next (u.writeReg (u.var x) r).advance
        else .fault (.busError .access (Config.base + r.offset) 8)) ∧
    (∀ r x w, u.currentStmt = some (.rd r x) → u.readReg r = some w →
      ∃ t, step s = .next t ∧ EngineSame u t ∧ t.var x = w ∧ (∀ y, y ≠ x → t.var y = u.var y) ∧
        t.hostPc = u.hostPc + 1) ∧
    (∀ x, u.currentStmt = some (.rd .cmd x) → step s = .fault (.busError .access (Config.base + 0x28) 8)) ∧
    (∀ l, u.currentStmt = some (.label l) → step s = .next { u with hostPc := u.hostPc + 1 }) ∧
    (∀ x b l, u.currentStmt = some (.bnz x b l) → (u.var x).getLsbD b.val = false →
      step s = .next { u with hostPc := u.hostPc + 1 }) ∧
    (∀ x b l, u.currentStmt = some (.bnz x b l) → (u.var x).getLsbD b.val = true → l ∈ definedLabels u.hostProg →
      ∃ k, u.hostProg[k]? = some (.label l) ∧ step s = .next { u with hostPc := k + 1 }) ∧
    (∀ x y, u.currentStmt = some (.mov x y) →
      ∃ t, step s = .next t ∧ EngineSame u t ∧ t.var x = u.var y ∧ (∀ z, z ≠ x → t.var z = u.var z) ∧
        t.hostPc = u.hostPc + 1) ∧
    (u.currentStmt = some .halt → step s = .next { u with hostHalted := true }) ∧
    (u.hostHalted = true → step s = .next u)

/-- Host variables (30_encoding.md R87, held as log 9 says): a write is read back, other variables keep their values, the
canonical form is kept, and canonical lists that read alike are equal. -/
def Obligations.HostVariableStore : Prop :=
  ∀ vs : List (Nat × Word), VarsWf vs →
    (∀ n w, VarsWf (varWrite vs n w) ∧ varRead (varWrite vs n w) n = w ∧
      ∀ m, m ≠ n → varRead (varWrite vs n w) m = varRead vs m) ∧
    ∀ us, VarsWf us → (∀ n, varRead us n = varRead vs n) → us = vs

/-! ## Independence of secret values -/

/-- 70_reset_and_hazards.md R213 as the model can say it: two states that agree on the status fields and the pending
command, whatever their limbs, still agree after the engine's turn, a CMD write of one word, and IN writes of any
values, and show the same STATUS. -/
def Obligations.ControlIndependentOfLimbs : Prop :=
  ∀ s s' : State, ControlSame s s' →
    s'.statusWord = s.statusWord ∧
    (∃ t t', engineTurn s = .next t ∧ engineTurn s' = .next t' ∧ ControlSame t t') ∧
    (∀ v, ControlSame (s.cmdWrite v) (s'.cmdWrite v)) ∧
    (∀ i v v', ControlSame (s.setIn i v) (s'.setIn i v'))
end

