-- ==== Sys2Proof/Laws/State.lean ====
section
/-! SUPPORT. One lemma per field per update of State, each true by definition. -/

namespace Sys2Proof.Machine

variable (s : State)

@[simp] theorem State.setIn_inp (i : Fin 5) (v : Word) : (s.setIn i v).inp = s.inp.set i v := rfl
@[simp] theorem State.setIn_out (i : Fin 5) (v : Word) : (s.setIn i v).out = s.out := rfl
@[simp] theorem State.setIn_obw (i : Fin 5) (v : Word) : (s.setIn i v).obw = s.obw := rfl
@[simp] theorem State.setIn_done (i : Fin 5) (v : Word) : (s.setIn i v).done = s.done := rfl
@[simp] theorem State.setIn_errCmd (i : Fin 5) (v : Word) : (s.setIn i v).errCmd = s.errCmd := rfl
@[simp] theorem State.setIn_errBusy (i : Fin 5) (v : Word) : (s.setIn i v).errBusy = s.errBusy := rfl
@[simp] theorem State.setIn_faultTopbit (i : Fin 5) (v : Word) : (s.setIn i v).faultTopbit = s.faultTopbit := rfl
@[simp] theorem State.setIn_pend (i : Fin 5) (v : Word) : (s.setIn i v).pend = s.pend := rfl
@[simp] theorem State.setIn_latch (i : Fin 5) (v : Word) : (s.setIn i v).latch = s.latch := rfl
@[simp] theorem State.setIn_hostProg (i : Fin 5) (v : Word) : (s.setIn i v).hostProg = s.hostProg := rfl
@[simp] theorem State.setIn_hostPc (i : Fin 5) (v : Word) : (s.setIn i v).hostPc = s.hostPc := rfl
@[simp] theorem State.setIn_hostHalted (i : Fin 5) (v : Word) : (s.setIn i v).hostHalted = s.hostHalted := rfl
@[simp] theorem State.setIn_hostVars (i : Fin 5) (v : Word) : (s.setIn i v).hostVars = s.hostVars := rfl
@[simp] theorem State.setIn_sched (i : Fin 5) (v : Word) : (s.setIn i v).sched = s.sched := rfl
@[simp] theorem State.setIn_freeCount (i : Fin 5) (v : Word) : (s.setIn i v).freeCount = s.freeCount := rfl

@[simp] theorem State.setOut_inp (l : Limbs) : (s.setOut l).inp = s.inp := rfl
@[simp] theorem State.setOut_out (l : Limbs) : (s.setOut l).out = l := rfl
@[simp] theorem State.setOut_obw (l : Limbs) : (s.setOut l).obw = s.obw := rfl
@[simp] theorem State.setOut_done (l : Limbs) : (s.setOut l).done = s.done := rfl
@[simp] theorem State.setOut_errCmd (l : Limbs) : (s.setOut l).errCmd = s.errCmd := rfl
@[simp] theorem State.setOut_errBusy (l : Limbs) : (s.setOut l).errBusy = s.errBusy := rfl
@[simp] theorem State.setOut_faultTopbit (l : Limbs) : (s.setOut l).faultTopbit = s.faultTopbit := rfl
@[simp] theorem State.setOut_pend (l : Limbs) : (s.setOut l).pend = s.pend := rfl
@[simp] theorem State.setOut_latch (l : Limbs) : (s.setOut l).latch = s.latch := rfl
@[simp] theorem State.setOut_hostProg (l : Limbs) : (s.setOut l).hostProg = s.hostProg := rfl
@[simp] theorem State.setOut_hostPc (l : Limbs) : (s.setOut l).hostPc = s.hostPc := rfl
@[simp] theorem State.setOut_hostHalted (l : Limbs) : (s.setOut l).hostHalted = s.hostHalted := rfl
@[simp] theorem State.setOut_hostVars (l : Limbs) : (s.setOut l).hostVars = s.hostVars := rfl
@[simp] theorem State.setOut_sched (l : Limbs) : (s.setOut l).sched = s.sched := rfl
@[simp] theorem State.setOut_freeCount (l : Limbs) : (s.setOut l).freeCount = s.freeCount := rfl

@[simp] theorem State.setObw_inp (b : ByteWords) : (s.setObw b).inp = s.inp := rfl
@[simp] theorem State.setObw_out (b : ByteWords) : (s.setObw b).out = s.out := rfl
@[simp] theorem State.setObw_obw (b : ByteWords) : (s.setObw b).obw = b := rfl
@[simp] theorem State.setObw_done (b : ByteWords) : (s.setObw b).done = s.done := rfl
@[simp] theorem State.setObw_errCmd (b : ByteWords) : (s.setObw b).errCmd = s.errCmd := rfl
@[simp] theorem State.setObw_errBusy (b : ByteWords) : (s.setObw b).errBusy = s.errBusy := rfl
@[simp] theorem State.setObw_faultTopbit (b : ByteWords) : (s.setObw b).faultTopbit = s.faultTopbit := rfl
@[simp] theorem State.setObw_pend (b : ByteWords) : (s.setObw b).pend = s.pend := rfl
@[simp] theorem State.setObw_latch (b : ByteWords) : (s.setObw b).latch = s.latch := rfl
@[simp] theorem State.setObw_hostProg (b : ByteWords) : (s.setObw b).hostProg = s.hostProg := rfl
@[simp] theorem State.setObw_hostPc (b : ByteWords) : (s.setObw b).hostPc = s.hostPc := rfl
@[simp] theorem State.setObw_hostHalted (b : ByteWords) : (s.setObw b).hostHalted = s.hostHalted := rfl
@[simp] theorem State.setObw_hostVars (b : ByteWords) : (s.setObw b).hostVars = s.hostVars := rfl
@[simp] theorem State.setObw_sched (b : ByteWords) : (s.setObw b).sched = s.sched := rfl
@[simp] theorem State.setObw_freeCount (b : ByteWords) : (s.setObw b).freeCount = s.freeCount := rfl

@[simp] theorem State.clearStatus_inp : s.clearStatus.inp = s.inp := rfl
@[simp] theorem State.clearStatus_out : s.clearStatus.out = s.out := rfl
@[simp] theorem State.clearStatus_obw : s.clearStatus.obw = s.obw := rfl
@[simp] theorem State.clearStatus_done : s.clearStatus.done = false := rfl
@[simp] theorem State.clearStatus_errCmd : s.clearStatus.errCmd = false := rfl
@[simp] theorem State.clearStatus_errBusy : s.clearStatus.errBusy = false := rfl
@[simp] theorem State.clearStatus_faultTopbit : s.clearStatus.faultTopbit = s.faultTopbit := rfl
@[simp] theorem State.clearStatus_pend : s.clearStatus.pend = s.pend := rfl
@[simp] theorem State.clearStatus_latch : s.clearStatus.latch = s.latch := rfl
@[simp] theorem State.clearStatus_hostProg : s.clearStatus.hostProg = s.hostProg := rfl
@[simp] theorem State.clearStatus_hostPc : s.clearStatus.hostPc = s.hostPc := rfl
@[simp] theorem State.clearStatus_hostHalted : s.clearStatus.hostHalted = s.hostHalted := rfl
@[simp] theorem State.clearStatus_hostVars : s.clearStatus.hostVars = s.hostVars := rfl
@[simp] theorem State.clearStatus_sched : s.clearStatus.sched = s.sched := rfl
@[simp] theorem State.clearStatus_freeCount : s.clearStatus.freeCount = s.freeCount := rfl

@[simp] theorem State.raiseErrBusy_inp : s.raiseErrBusy.inp = s.inp := rfl
@[simp] theorem State.raiseErrBusy_out : s.raiseErrBusy.out = s.out := rfl
@[simp] theorem State.raiseErrBusy_obw : s.raiseErrBusy.obw = s.obw := rfl
@[simp] theorem State.raiseErrBusy_done : s.raiseErrBusy.done = s.done := rfl
@[simp] theorem State.raiseErrBusy_errCmd : s.raiseErrBusy.errCmd = s.errCmd := rfl
@[simp] theorem State.raiseErrBusy_errBusy : s.raiseErrBusy.errBusy = true := rfl
@[simp] theorem State.raiseErrBusy_faultTopbit : s.raiseErrBusy.faultTopbit = s.faultTopbit := rfl
@[simp] theorem State.raiseErrBusy_pend : s.raiseErrBusy.pend = s.pend := rfl
@[simp] theorem State.raiseErrBusy_latch : s.raiseErrBusy.latch = s.latch := rfl
@[simp] theorem State.raiseErrBusy_hostProg : s.raiseErrBusy.hostProg = s.hostProg := rfl
@[simp] theorem State.raiseErrBusy_hostPc : s.raiseErrBusy.hostPc = s.hostPc := rfl
@[simp] theorem State.raiseErrBusy_hostHalted : s.raiseErrBusy.hostHalted = s.hostHalted := rfl
@[simp] theorem State.raiseErrBusy_hostVars : s.raiseErrBusy.hostVars = s.hostVars := rfl
@[simp] theorem State.raiseErrBusy_sched : s.raiseErrBusy.sched = s.sched := rfl
@[simp] theorem State.raiseErrBusy_freeCount : s.raiseErrBusy.freeCount = s.freeCount := rfl

@[simp] theorem State.raiseErrCmd_inp : s.raiseErrCmd.inp = s.inp := rfl
@[simp] theorem State.raiseErrCmd_out : s.raiseErrCmd.out = s.out := rfl
@[simp] theorem State.raiseErrCmd_obw : s.raiseErrCmd.obw = s.obw := rfl
@[simp] theorem State.raiseErrCmd_done : s.raiseErrCmd.done = s.done := rfl
@[simp] theorem State.raiseErrCmd_errCmd : s.raiseErrCmd.errCmd = true := rfl
@[simp] theorem State.raiseErrCmd_errBusy : s.raiseErrCmd.errBusy = s.errBusy := rfl
@[simp] theorem State.raiseErrCmd_faultTopbit : s.raiseErrCmd.faultTopbit = s.faultTopbit := rfl
@[simp] theorem State.raiseErrCmd_pend : s.raiseErrCmd.pend = s.pend := rfl
@[simp] theorem State.raiseErrCmd_latch : s.raiseErrCmd.latch = s.latch := rfl
@[simp] theorem State.raiseErrCmd_hostProg : s.raiseErrCmd.hostProg = s.hostProg := rfl
@[simp] theorem State.raiseErrCmd_hostPc : s.raiseErrCmd.hostPc = s.hostPc := rfl
@[simp] theorem State.raiseErrCmd_hostHalted : s.raiseErrCmd.hostHalted = s.hostHalted := rfl
@[simp] theorem State.raiseErrCmd_hostVars : s.raiseErrCmd.hostVars = s.hostVars := rfl
@[simp] theorem State.raiseErrCmd_sched : s.raiseErrCmd.sched = s.sched := rfl
@[simp] theorem State.raiseErrCmd_freeCount : s.raiseErrCmd.freeCount = s.freeCount := rfl

@[simp] theorem State.noteTopbit_inp (top : Bool) : (s.noteTopbit top).inp = s.inp := rfl
@[simp] theorem State.noteTopbit_out (top : Bool) : (s.noteTopbit top).out = s.out := rfl
@[simp] theorem State.noteTopbit_obw (top : Bool) : (s.noteTopbit top).obw = s.obw := rfl
@[simp] theorem State.noteTopbit_done (top : Bool) : (s.noteTopbit top).done = s.done := rfl
@[simp] theorem State.noteTopbit_errCmd (top : Bool) : (s.noteTopbit top).errCmd = s.errCmd := rfl
@[simp] theorem State.noteTopbit_errBusy (top : Bool) : (s.noteTopbit top).errBusy = s.errBusy := rfl
@[simp] theorem State.noteTopbit_faultTopbit (top : Bool) : (s.noteTopbit top).faultTopbit = (s.faultTopbit || top) := rfl
@[simp] theorem State.noteTopbit_pend (top : Bool) : (s.noteTopbit top).pend = s.pend := rfl
@[simp] theorem State.noteTopbit_latch (top : Bool) : (s.noteTopbit top).latch = s.latch := rfl
@[simp] theorem State.noteTopbit_hostProg (top : Bool) : (s.noteTopbit top).hostProg = s.hostProg := rfl
@[simp] theorem State.noteTopbit_hostPc (top : Bool) : (s.noteTopbit top).hostPc = s.hostPc := rfl
@[simp] theorem State.noteTopbit_hostHalted (top : Bool) : (s.noteTopbit top).hostHalted = s.hostHalted := rfl
@[simp] theorem State.noteTopbit_hostVars (top : Bool) : (s.noteTopbit top).hostVars = s.hostVars := rfl
@[simp] theorem State.noteTopbit_sched (top : Bool) : (s.noteTopbit top).sched = s.sched := rfl
@[simp] theorem State.noteTopbit_freeCount (top : Bool) : (s.noteTopbit top).freeCount = s.freeCount := rfl

@[simp] theorem State.finishCommand_inp : s.finishCommand.inp = s.inp := rfl
@[simp] theorem State.finishCommand_out : s.finishCommand.out = s.out := rfl
@[simp] theorem State.finishCommand_obw : s.finishCommand.obw = s.obw := rfl
@[simp] theorem State.finishCommand_done : s.finishCommand.done = true := rfl
@[simp] theorem State.finishCommand_errCmd : s.finishCommand.errCmd = s.errCmd := rfl
@[simp] theorem State.finishCommand_errBusy : s.finishCommand.errBusy = s.errBusy := rfl
@[simp] theorem State.finishCommand_faultTopbit : s.finishCommand.faultTopbit = s.faultTopbit := rfl
@[simp] theorem State.finishCommand_pend : s.finishCommand.pend = none := rfl
@[simp] theorem State.finishCommand_latch : s.finishCommand.latch = s.latch := rfl
@[simp] theorem State.finishCommand_hostProg : s.finishCommand.hostProg = s.hostProg := rfl
@[simp] theorem State.finishCommand_hostPc : s.finishCommand.hostPc = s.hostPc := rfl
@[simp] theorem State.finishCommand_hostHalted : s.finishCommand.hostHalted = s.hostHalted := rfl
@[simp] theorem State.finishCommand_hostVars : s.finishCommand.hostVars = s.hostVars := rfl
@[simp] theorem State.finishCommand_sched : s.finishCommand.sched = s.sched := rfl
@[simp] theorem State.finishCommand_freeCount : s.finishCommand.freeCount = s.freeCount := rfl

@[simp] theorem State.acceptCommand_inp (i : Instr) : (s.acceptCommand i).inp = s.inp := rfl
@[simp] theorem State.acceptCommand_out (i : Instr) : (s.acceptCommand i).out = s.out := rfl
@[simp] theorem State.acceptCommand_obw (i : Instr) : (s.acceptCommand i).obw = s.obw := rfl
@[simp] theorem State.acceptCommand_done (i : Instr) : (s.acceptCommand i).done = false := rfl
@[simp] theorem State.acceptCommand_errCmd (i : Instr) : (s.acceptCommand i).errCmd = false := rfl
@[simp] theorem State.acceptCommand_errBusy (i : Instr) : (s.acceptCommand i).errBusy = false := rfl
@[simp] theorem State.acceptCommand_faultTopbit (i : Instr) : (s.acceptCommand i).faultTopbit = s.faultTopbit := rfl
@[simp] theorem State.acceptCommand_pend (i : Instr) : (s.acceptCommand i).pend = some i := rfl
@[simp] theorem State.acceptCommand_latch (i : Instr) : (s.acceptCommand i).latch = s.inp := rfl
@[simp] theorem State.acceptCommand_hostProg (i : Instr) : (s.acceptCommand i).hostProg = s.hostProg := rfl
@[simp] theorem State.acceptCommand_hostPc (i : Instr) : (s.acceptCommand i).hostPc = s.hostPc := rfl
@[simp] theorem State.acceptCommand_hostHalted (i : Instr) : (s.acceptCommand i).hostHalted = s.hostHalted := rfl
@[simp] theorem State.acceptCommand_hostVars (i : Instr) : (s.acceptCommand i).hostVars = s.hostVars := rfl
@[simp] theorem State.acceptCommand_sched (i : Instr) : (s.acceptCommand i).sched = s.sched := rfl
@[simp] theorem State.acceptCommand_freeCount (i : Instr) : (s.acceptCommand i).freeCount = s.freeCount := rfl

@[simp] theorem State.rejectCommand_inp : s.rejectCommand.inp = s.inp := rfl
@[simp] theorem State.rejectCommand_out : s.rejectCommand.out = s.out := rfl
@[simp] theorem State.rejectCommand_obw : s.rejectCommand.obw = s.obw := rfl
@[simp] theorem State.rejectCommand_done : s.rejectCommand.done = false := rfl
@[simp] theorem State.rejectCommand_errCmd : s.rejectCommand.errCmd = true := rfl
@[simp] theorem State.rejectCommand_errBusy : s.rejectCommand.errBusy = false := rfl
@[simp] theorem State.rejectCommand_faultTopbit : s.rejectCommand.faultTopbit = s.faultTopbit := rfl
@[simp] theorem State.rejectCommand_pend : s.rejectCommand.pend = s.pend := rfl
@[simp] theorem State.rejectCommand_latch : s.rejectCommand.latch = s.latch := rfl
@[simp] theorem State.rejectCommand_hostProg : s.rejectCommand.hostProg = s.hostProg := rfl
@[simp] theorem State.rejectCommand_hostPc : s.rejectCommand.hostPc = s.hostPc := rfl
@[simp] theorem State.rejectCommand_hostHalted : s.rejectCommand.hostHalted = s.hostHalted := rfl
@[simp] theorem State.rejectCommand_hostVars : s.rejectCommand.hostVars = s.hostVars := rfl
@[simp] theorem State.rejectCommand_sched : s.rejectCommand.sched = s.sched := rfl
@[simp] theorem State.rejectCommand_freeCount : s.rejectCommand.freeCount = s.freeCount := rfl

@[simp] theorem State.resetEngine_inp : s.resetEngine.inp = .zero := rfl
@[simp] theorem State.resetEngine_out : s.resetEngine.out = .zero := rfl
@[simp] theorem State.resetEngine_obw : s.resetEngine.obw = .zero := rfl
@[simp] theorem State.resetEngine_done : s.resetEngine.done = false := rfl
@[simp] theorem State.resetEngine_errCmd : s.resetEngine.errCmd = false := rfl
@[simp] theorem State.resetEngine_errBusy : s.resetEngine.errBusy = false := rfl
@[simp] theorem State.resetEngine_faultTopbit : s.resetEngine.faultTopbit = false := rfl
@[simp] theorem State.resetEngine_pend : s.resetEngine.pend = none := rfl
@[simp] theorem State.resetEngine_latch : s.resetEngine.latch = .zero := rfl
@[simp] theorem State.resetEngine_hostProg : s.resetEngine.hostProg = s.hostProg := rfl
@[simp] theorem State.resetEngine_hostPc : s.resetEngine.hostPc = s.hostPc := rfl
@[simp] theorem State.resetEngine_hostHalted : s.resetEngine.hostHalted = s.hostHalted := rfl
@[simp] theorem State.resetEngine_hostVars : s.resetEngine.hostVars = s.hostVars := rfl
@[simp] theorem State.resetEngine_sched : s.resetEngine.sched = s.sched := rfl
@[simp] theorem State.resetEngine_freeCount : s.resetEngine.freeCount = s.freeCount := rfl

@[simp] theorem State.advance_inp : s.advance.inp = s.inp := rfl
@[simp] theorem State.advance_out : s.advance.out = s.out := rfl
@[simp] theorem State.advance_obw : s.advance.obw = s.obw := rfl
@[simp] theorem State.advance_done : s.advance.done = s.done := rfl
@[simp] theorem State.advance_errCmd : s.advance.errCmd = s.errCmd := rfl
@[simp] theorem State.advance_errBusy : s.advance.errBusy = s.errBusy := rfl
@[simp] theorem State.advance_faultTopbit : s.advance.faultTopbit = s.faultTopbit := rfl
@[simp] theorem State.advance_pend : s.advance.pend = s.pend := rfl
@[simp] theorem State.advance_latch : s.advance.latch = s.latch := rfl
@[simp] theorem State.advance_hostProg : s.advance.hostProg = s.hostProg := rfl
@[simp] theorem State.advance_hostPc : s.advance.hostPc = s.hostPc + 1 := rfl
@[simp] theorem State.advance_hostHalted : s.advance.hostHalted = s.hostHalted := rfl
@[simp] theorem State.advance_hostVars : s.advance.hostVars = s.hostVars := rfl
@[simp] theorem State.advance_sched : s.advance.sched = s.sched := rfl
@[simp] theorem State.advance_freeCount : s.advance.freeCount = s.freeCount := rfl

@[simp] theorem State.hostJump_inp (k : Nat) : (s.hostJump k).inp = s.inp := rfl
@[simp] theorem State.hostJump_out (k : Nat) : (s.hostJump k).out = s.out := rfl
@[simp] theorem State.hostJump_obw (k : Nat) : (s.hostJump k).obw = s.obw := rfl
@[simp] theorem State.hostJump_done (k : Nat) : (s.hostJump k).done = s.done := rfl
@[simp] theorem State.hostJump_errCmd (k : Nat) : (s.hostJump k).errCmd = s.errCmd := rfl
@[simp] theorem State.hostJump_errBusy (k : Nat) : (s.hostJump k).errBusy = s.errBusy := rfl
@[simp] theorem State.hostJump_faultTopbit (k : Nat) : (s.hostJump k).faultTopbit = s.faultTopbit := rfl
@[simp] theorem State.hostJump_pend (k : Nat) : (s.hostJump k).pend = s.pend := rfl
@[simp] theorem State.hostJump_latch (k : Nat) : (s.hostJump k).latch = s.latch := rfl
@[simp] theorem State.hostJump_hostProg (k : Nat) : (s.hostJump k).hostProg = s.hostProg := rfl
@[simp] theorem State.hostJump_hostPc (k : Nat) : (s.hostJump k).hostPc = k := rfl
@[simp] theorem State.hostJump_hostHalted (k : Nat) : (s.hostJump k).hostHalted = s.hostHalted := rfl
@[simp] theorem State.hostJump_hostVars (k : Nat) : (s.hostJump k).hostVars = s.hostVars := rfl
@[simp] theorem State.hostJump_sched (k : Nat) : (s.hostJump k).sched = s.sched := rfl
@[simp] theorem State.hostJump_freeCount (k : Nat) : (s.hostJump k).freeCount = s.freeCount := rfl

@[simp] theorem State.haltHost_inp : s.haltHost.inp = s.inp := rfl
@[simp] theorem State.haltHost_out : s.haltHost.out = s.out := rfl
@[simp] theorem State.haltHost_obw : s.haltHost.obw = s.obw := rfl
@[simp] theorem State.haltHost_done : s.haltHost.done = s.done := rfl
@[simp] theorem State.haltHost_errCmd : s.haltHost.errCmd = s.errCmd := rfl
@[simp] theorem State.haltHost_errBusy : s.haltHost.errBusy = s.errBusy := rfl
@[simp] theorem State.haltHost_faultTopbit : s.haltHost.faultTopbit = s.faultTopbit := rfl
@[simp] theorem State.haltHost_pend : s.haltHost.pend = s.pend := rfl
@[simp] theorem State.haltHost_latch : s.haltHost.latch = s.latch := rfl
@[simp] theorem State.haltHost_hostProg : s.haltHost.hostProg = s.hostProg := rfl
@[simp] theorem State.haltHost_hostPc : s.haltHost.hostPc = s.hostPc := rfl
@[simp] theorem State.haltHost_hostHalted : s.haltHost.hostHalted = true := rfl
@[simp] theorem State.haltHost_hostVars : s.haltHost.hostVars = s.hostVars := rfl
@[simp] theorem State.haltHost_sched : s.haltHost.sched = s.sched := rfl
@[simp] theorem State.haltHost_freeCount : s.haltHost.freeCount = s.freeCount := rfl

@[simp] theorem State.setVar_inp (n : Nat) (w : Word) : (s.setVar n w).inp = s.inp := rfl
@[simp] theorem State.setVar_out (n : Nat) (w : Word) : (s.setVar n w).out = s.out := rfl
@[simp] theorem State.setVar_obw (n : Nat) (w : Word) : (s.setVar n w).obw = s.obw := rfl
@[simp] theorem State.setVar_done (n : Nat) (w : Word) : (s.setVar n w).done = s.done := rfl
@[simp] theorem State.setVar_errCmd (n : Nat) (w : Word) : (s.setVar n w).errCmd = s.errCmd := rfl
@[simp] theorem State.setVar_errBusy (n : Nat) (w : Word) : (s.setVar n w).errBusy = s.errBusy := rfl
@[simp] theorem State.setVar_faultTopbit (n : Nat) (w : Word) : (s.setVar n w).faultTopbit = s.faultTopbit := rfl
@[simp] theorem State.setVar_pend (n : Nat) (w : Word) : (s.setVar n w).pend = s.pend := rfl
@[simp] theorem State.setVar_latch (n : Nat) (w : Word) : (s.setVar n w).latch = s.latch := rfl
@[simp] theorem State.setVar_hostProg (n : Nat) (w : Word) : (s.setVar n w).hostProg = s.hostProg := rfl
@[simp] theorem State.setVar_hostPc (n : Nat) (w : Word) : (s.setVar n w).hostPc = s.hostPc := rfl
@[simp] theorem State.setVar_hostHalted (n : Nat) (w : Word) : (s.setVar n w).hostHalted = s.hostHalted := rfl
@[simp] theorem State.setVar_hostVars (n : Nat) (w : Word) : (s.setVar n w).hostVars = varWrite s.hostVars n w := rfl
@[simp] theorem State.setVar_sched (n : Nat) (w : Word) : (s.setVar n w).sched = s.sched := rfl
@[simp] theorem State.setVar_freeCount (n : Nat) (w : Word) : (s.setVar n w).freeCount = s.freeCount := rfl

@[simp] theorem State.countFree_inp : s.countFree.inp = s.inp := rfl
@[simp] theorem State.countFree_out : s.countFree.out = s.out := rfl
@[simp] theorem State.countFree_obw : s.countFree.obw = s.obw := rfl
@[simp] theorem State.countFree_done : s.countFree.done = s.done := rfl
@[simp] theorem State.countFree_errCmd : s.countFree.errCmd = s.errCmd := rfl
@[simp] theorem State.countFree_errBusy : s.countFree.errBusy = s.errBusy := rfl
@[simp] theorem State.countFree_faultTopbit : s.countFree.faultTopbit = s.faultTopbit := rfl
@[simp] theorem State.countFree_pend : s.countFree.pend = s.pend := rfl
@[simp] theorem State.countFree_latch : s.countFree.latch = s.latch := rfl
@[simp] theorem State.countFree_hostProg : s.countFree.hostProg = s.hostProg := rfl
@[simp] theorem State.countFree_hostPc : s.countFree.hostPc = s.hostPc := rfl
@[simp] theorem State.countFree_hostHalted : s.countFree.hostHalted = s.hostHalted := rfl
@[simp] theorem State.countFree_hostVars : s.countFree.hostVars = s.hostVars := rfl
@[simp] theorem State.countFree_sched : s.countFree.sched = s.sched := rfl
@[simp] theorem State.countFree_freeCount : s.countFree.freeCount = s.freeCount + 1 := rfl

end Sys2Proof.Machine
end

