-- ==== Sys2Proof/Laws/Bus.lean ====
section
/-! SUPPORT. The bus operations: what each can answer, and the offsets of registers. -/

namespace Sys2Proof.Machine

@[simp] theorem WindowReg.at?_offset (r : WindowReg) : WindowReg.at? r.offset = some r := by
  cases r with
  | inLimb i => fin_cases i <;> rfl
  | cmd => rfl
  | status => rfl
  | outLimb i => fin_cases i <;> rfl
  | outBytes k => fin_cases k <;> rfl

@[simp] theorem WindowReg.offset_mod (r : WindowReg) : r.offset % 8 = 0 := by
  cases r <;> simp [WindowReg.offset]

theorem WindowReg.offset_lt (r : WindowReg) : r.offset < Config.windowBytes := by
  cases r <;> simp [WindowReg.offset, Config.windowBytes] <;> omega

@[simp] theorem WindowReg.addr_sub_base (r : WindowReg) : r.addr - Config.base = r.offset :=
  Nat.add_sub_cancel_left ..

@[simp] theorem WindowReg.read_inWindow (r : WindowReg) (n : Nat) : (BusAccess.read r.addr n).inWindow = true := by
  have := r.offset_lt
  simp [BusAccess.inWindow, BusAccess.addr, WindowReg.addr, this]

@[simp] theorem WindowReg.write_inWindow (r : WindowReg) (n : Nat) (v : Word) :
    (BusAccess.write r.addr n v).inWindow = true := by
  have := r.offset_lt
  simp [BusAccess.inWindow, BusAccess.addr, WindowReg.addr, this]

/-- A register's own offset, at the one access size, passes the checks. -/
@[simp] theorem checkAccess_offset (r : WindowReg) : checkAccess r.offset 8 = .ok r := by simp [checkAccess]

/-- Reading a register at its address. -/
@[simp] theorem State.serve_read_addr (s : State) (r : WindowReg) :
    s.serve (.read r.addr 8) =
      (match s.readReg r with
        | none => .error .access
        | some v => .data v, s) := by
  cases h : s.readReg r <;>
    simp only [State.serve, State.readWindow, WindowReg.addr_sub_base, checkAccess_offset, h]

/-- Writing a register at its address. -/
@[simp] theorem State.serve_write_addr (s : State) (r : WindowReg) (v : Word) :
    s.serve (.write r.addr 8 v) = if r.writable then (.ack, s.writeReg v r) else (.error .access, s) := by
  simp [State.serve, State.writeWindow]

/-- What a CMD write can do (40_command_protocol.md R101 to R103). -/
theorem State.cmdWrite_cases (s : State) (v : Word) :
    (∃ i, s.pend = some i ∧ s.cmdWrite v = s.raiseErrBusy) ∨
    (∃ i, s.pend = none ∧ decodeCommand v = .ok i ∧ s.cmdWrite v = s.acceptCommand i) ∨
    (∃ e, s.pend = none ∧ decodeCommand v = .error e ∧ s.cmdWrite v = s.rejectCommand) := by
  unfold State.cmdWrite
  cases hp : s.pend with
  | some i => exact .inl ⟨i, rfl, rfl⟩
  | none =>
    cases hd : decodeCommand v with
    | ok i => exact .inr (.inl ⟨i, rfl, rfl, rfl⟩)
    | error e => exact .inr (.inr ⟨e, rfl, rfl, rfl⟩)

/-- What the engine does with an access that reaches it: nothing, an IN write or a CMD write. -/
theorem State.serve_cases (s : State) (a : BusAccess) :
    (s.serve a).2 = s ∨
    (∃ i addr n v, a = .write addr n v ∧ (s.serve a).1 = .ack ∧ (s.serve a).2 = s.setIn i v) ∨
    (∃ addr n v, a = .write addr n v ∧ (s.serve a).1 = .ack ∧ (s.serve a).2 = s.cmdWrite v) := by
  cases a with
  | read addr n => exact .inl rfl
  | write addr n v =>
    simp only [State.serve, State.writeWindow]
    cases checkAccess (addr - Config.base) n with
    | error k => exact .inl rfl
    | ok r =>
      cases r with
      | inLimb i => exact .inr (.inl ⟨i, addr, n, v, rfl, rfl, rfl⟩)
      | cmd => exact .inr (.inr ⟨addr, n, v, rfl, rfl, rfl⟩)
      | status => exact .inl rfl
      | outLimb i => exact .inl rfl
      | outBytes k => exact .inl rfl

end Sys2Proof.Machine
end

