-- ==== Sys2Proof/Laws/Limbs.lean ====
section
/-! SUPPORT. Limb registers and limb fields: reads after writes, and the 51-bit mask and carry as integers. -/

namespace Sys2Proof.Machine

@[simp] theorem Limbs.get_set_same (l : Limbs) (i : Fin 5) (v : Word) : (l.set i v).get i = v := by
  fin_cases i <;> rfl

theorem Limbs.get_set_other (l : Limbs) {i j : Fin 5} (v : Word) (h : j ≠ i) : (l.set i v).get j = l.get j := by
  fin_cases i <;> fin_cases j <;> first | exact absurd rfl h | rfl

@[simp] theorem Limbs.set_set (l : Limbs) (i : Fin 5) (v w : Word) : (l.set i v).set i w = l.set i w := by
  fin_cases i <;> rfl

/-- A limb is its low 51 bits and its carry. -/
@[simp] theorem toNat_carryOf (x : Word) : (carryOf x).toNat = x.toNat / 2 ^ 51 := by
  simp [carryOf, BitVec.toNat_ushiftRight, Nat.shiftRight_eq_div_pow]

@[simp] theorem toNat_low51 (x : Word) : (low51 x).toNat = x.toNat % 2 ^ 51 := by
  have h : Config.mask51.toNat = 2 ^ 51 - 1 := by decide
  rw [low51, BitVec.toNat_and, h, Nat.and_two_pow_sub_one_eq_mod]

theorem toNat_low51_lt (x : Word) : (low51 x).toNat < 2 ^ 51 := by
  rw [toNat_low51]; exact Nat.mod_lt _ (by decide)

@[simp] theorem toNat_fold : Config.fold.toNat = 19 := rfl

end Sys2Proof.Machine
end

