-- ==== Sys2Proof/Laws/PerInstr.lean ====
section
/-! SUPPORT. Statements about every instruction as syntax, one lemma per constructor. -/

/-- The instruction's word, given as its opcode-table row numbers it, decodes to it. -/
def Sys2Proof.Laws.RoundTrip.Statement (i : Sys2Proof.Instr) : Prop :=
  Sys2Proof.decodeTableWord 64 (Sys2Proof.encode i).toNat = some i

theorem Sys2Proof.Laws.RoundTrip.reduce : Sys2Proof.Laws.RoundTrip.Statement .reduce := by
  unfold Sys2Proof.Laws.RoundTrip.Statement; decide

theorem Sys2Proof.Laws.RoundTrip.encode : Sys2Proof.Laws.RoundTrip.Statement .encode := by
  unfold Sys2Proof.Laws.RoundTrip.Statement; decide
end

