-- ==== Sys2Proof/Laws/Step.lean ====
section
/-! SUPPORT. What a host access, a host statement, a turn and a step can do. -/

namespace Sys2Proof.Machine

/-- If a host access answers a next state, the engine served it: an acknowledged write, or a read whose data went to
its destination. -/
theorem busTurn_cases {a : BusAccess} {dst : Option Nat} {s t : State} (h : busTurn a dst s = .next t) :
    a.inWindow = true ∧
    ((s.serve a).1 = .ack ∧ t = (s.serve a).2.advance ∨
      ∃ v, (s.serve a).1 = .data v ∧ t = ((s.serve a).2.setDest dst v).advance) := by
  unfold busTurn at h
  split at h
  · rename_i hw
    refine ⟨hw, ?_⟩
    split at h
    · cases h
    · rename_i s' he
      cases h
      exact .inl (by simp [he])
    · rename_i v s' he
      cases h
      exact .inr ⟨v, by simp [he]⟩
  · cases h

/-- If a host access in a reset cycle answers a next state, only the host moved. -/
theorem lostTurn_cases {a : BusAccess} {dst : Option Nat} {s t : State} (h : lostTurn a dst s = .next t) :
    a.inWindow = true ∧
    (dst = none ∧ t = s.advance ∨
      ∃ n, dst = some n ∧ t = ((s.setVar n (Config.freeReadData s.freeCount)).countFree).advance) := by
  unfold lostTurn at h
  split at h
  · rename_i hw
    refine ⟨hw, ?_⟩
    split at h
    · cases h; exact .inl ⟨rfl, rfl⟩
    · cases h; exact .inr ⟨_, rfl, rfl⟩
  · cases h

/-- If a host statement answers a next state, it was a bus access handed to `bus`, or a host-local step. -/
theorem hostStatement_cases {bus : BusAccess → Option Nat → State → Host.Outcome State Fault Refusal}
    {st : HostStmt} {s t : State} (h : hostStatement bus st s = .next t) :
    (∃ a dst, bus a dst s = .next t ∧
      ((∃ r v, st = .wr r v) ∨ (∃ r x, st = .wrVar r x) ∨ (∃ addr n v, st = .memWrite addr n v) ∨
        ∃ addr n, a = .read addr n)) ∨
    t = s.advance ∨ (∃ k, t = s.hostJump k) ∨ (∃ x w, t = (s.setVar x w).advance) ∨ t = s.haltHost := by
  cases st with
  | wr r v => exact .inl ⟨_, _, h, .inl ⟨r, v, rfl⟩⟩
  | wrVar r x => exact .inl ⟨_, _, h, .inr (.inl ⟨r, x, rfl⟩)⟩
  | rd r x => exact .inl ⟨_, _, h, .inr (.inr (.inr ⟨_, _, rfl⟩))⟩
  | memRead a n x => exact .inl ⟨_, _, h, .inr (.inr (.inr ⟨_, _, rfl⟩))⟩
  | memWrite a n v => exact .inl ⟨_, _, h, .inr (.inr (.inl ⟨a, n, v, rfl⟩))⟩
  | label l => cases h; exact .inr (.inl rfl)
  | bnz x b l =>
    simp only [hostStatement] at h
    split at h
    · split at h
      · cases h; exact .inr (.inr (.inl ⟨_, rfl⟩))
      · cases h
    · cases h; exact .inr (.inl rfl)
  | mov x y => cases h; exact .inr (.inr (.inr (.inl ⟨x, _, rfl⟩)))
  | halt => cases h; exact .inr (.inr (.inr (.inr rfl)))

/-- A command always answers a next state. -/
theorem exec_next (i : Instr) (s : State) : ∃ t, exec i s = .next t := by
  cases i with
  | reduce => exact ⟨_, rfl⟩
  | encode => exact ⟨_, rfl⟩

/-- The engine's turn changes nothing, or completes the pending command. -/
theorem engineTurn_cases (s : State) :
    (s.pend = none ∧ engineTurn s = .next s) ∨ (∃ i, s.pend = some i ∧ engineTurn s = exec i s) := by
  unfold engineTurn
  cases s.pend with
  | none => exact .inl ⟨rfl, rfl⟩
  | some i => exact .inr ⟨i, rfl, rfl⟩

/-- The engine's turn always answers a next state. -/
theorem engineTurn_next (s : State) : ∃ t, engineTurn s = .next t := by
  rcases engineTurn_cases s with ⟨-, h⟩ | ⟨i, -, h⟩
  · exact ⟨_, h⟩
  · rw [h]; exact exec_next i s

/-- Completion and a host statement in one cycle are the engine's turn and then the host's. -/
theorem runTurn_engineThenHost {s r : State} (h : engineTurn s = .next r) :
    runTurn .engineThenHost s = hostTurn r := by
  simp [runTurn, h]

/-- Taking a turn changes the schedule alone. -/
theorem takeTurn_eq {s u : State} {t : Turn} (h : s.takeTurn = (t, u)) : u = { s with sched := u.sched } := by
  unfold State.takeTurn at h
  split at h <;> cases h <;> rfl

/-- A step is the next turn, run on the state without it. -/
theorem step_eq_runTurn {s u : State} {t : Turn} (h : s.takeTurn = (t, u)) : step s = runTurn t u := by
  simp [step, nextStep, h]

/-- A run of n + 1 steps that answers a next state is a step and a run of n. -/
theorem run_succ {n : Nat} {s t : State} (h : Host.Core.run core (n + 1) s = .next t) :
    ∃ s', step s = .next s' ∧ Host.Core.run core n s' = .next t := by
  rw [Host.Core.run.eq_2 core s n] at h
  cases hs : step s with
  | next s' =>
    have hc : core.step s = .next s' := hs
    rw [hc] at h
    exact ⟨s', rfl, h⟩
  | fault r =>
    have hc : core.step s = .fault r := hs
    rw [hc] at h
    cases h
  | refused r =>
    have hc : core.step s = .refused r := hs
    rw [hc] at h
    cases h

end Sys2Proof.Machine
end

