-- ==== Sys2Proof/Laws/Vars.lean ====
section
/-! SUPPORT. Host variables keep their canonical form. -/

namespace Sys2Proof.Machine

/-- The numbers a written list holds: the old ones and the one written. -/
theorem varWrite_keys {vs : List (Nat × Word)} {n : Nat} {w : Word} {p : Nat × Word} (h : p ∈ varWrite vs n w) :
    p ∈ vs ∨ p = (n, w) ∧ w ≠ 0 := by
  induction vs with
  | nil => simp only [varWrite] at h; split at h <;> simp_all
  | cons a rest ih =>
    obtain ⟨k, v⟩ := a
    simp only [varWrite] at h
    split at h
    · split at h <;> simp_all
      rcases h with h | h | h <;> simp_all
    · split at h
      · split at h <;> simp_all
        rcases h with h | h <;> simp_all
      · rcases List.mem_cons.mp h with h | h
        · exact .inl (by simp [h])
        · rcases ih h with h | h
          · exact .inl (by simp [h])
          · exact .inr h

/-- Writing a variable keeps the canonical form. -/
theorem varWrite_wf {vs : List (Nat × Word)} (n : Nat) (w : Word) (h : VarsWf vs) : VarsWf (varWrite vs n w) := by
  induction vs with
  | nil => simp only [varWrite]; split <;> simp_all [VarsWf]
  | cons a rest ih =>
    obtain ⟨k, v⟩ := a
    obtain ⟨hp, hz⟩ := h
    obtain ⟨hk, hr⟩ := List.pairwise_cons.mp hp
    have hrest : VarsWf rest := ⟨hr, fun p hp => hz p (by simp [hp])⟩
    simp only [varWrite]
    split
    · rename_i hlt
      split
      · exact ⟨hp, hz⟩
      · refine ⟨List.pairwise_cons.mpr ⟨fun p hp' => ?_, hp⟩, fun p hp' => ?_⟩
        · rcases List.mem_cons.mp hp' with rfl | hp'
          · exact hlt
          · exact Nat.lt_trans hlt (hk p hp')
        · rcases List.mem_cons.mp hp' with rfl | hp'
          · assumption
          · exact hz p hp'
    · split
      · rename_i heq
        subst heq
        split
        · exact hrest
        · refine ⟨List.pairwise_cons.mpr ⟨hk, hr⟩, fun p hp' => ?_⟩
          rcases List.mem_cons.mp hp' with rfl | hp'
          · assumption
          · exact hrest.2 p hp'
      · rename_i hlt hne
        refine ⟨List.pairwise_cons.mpr ⟨fun p hp' => ?_, (ih hrest).1⟩, fun p hp' => ?_⟩
        · rcases varWrite_keys hp' with hp' | ⟨rfl, -⟩
          · exact hk p hp'
          · simp only; omega
        · rcases List.mem_cons.mp hp' with rfl | hp'
          · exact hz _ (by simp)
          · exact (ih hrest).2 p hp'

end Sys2Proof.Machine
end

