-- ==== Sys2Proof/Tests/Slice0.lean ====
section
/-! SUPPORT. The model's own tests: decoding, the checks of WellFormed, single steps on the spec's vectors
(95_test_vectors.md), and a witness for the hypotheses of each statement. -/

namespace Sys2Proof.Tests

open Machine Safety

/-! ## Decoding (words written out from 30_encoding.md R80, R82) -/

theorem test_decode_reduce_word :
    decodeCommand 0b0000000000000000000000000000000000000000000000000000000000000001 = .ok .reduce := by decide

theorem test_decode_encode_word :
    decodeCommand 0b0000000000000000000000000000000000000000000000000000000000000010 = .ok .encode := by decide

theorem test_decode_reduce_bytes : decodeBytes [0x01, 0, 0, 0, 0, 0, 0, 0] = .ok .reduce := by decide

theorem test_decode_encode_bytes : decodeBytes [0x02, 0, 0, 0, 0, 0, 0, 0] = .ok .encode := by decide

/-- A zero write is no command (R86). -/
theorem test_decode_zero : decodeCommand 0 = .error (.reservedOpcode 0) := by decide

/-- Reserved bit 32 set (95_test_vectors.md V-C7). -/
theorem test_decode_reserved_bit : decodeCommand 0x0000000100000001 = .error .reservedBitsSet := by decide

theorem test_decode_short_bytes : decodeBytes [0x01] = .error (.wrongLength 1) := by decide

theorem test_encode_wf : Instr.wf .reduce = true ∧ Instr.wf .encode = true := by decide

/-! ## WellFormed: a well-formed program, and one ill-formed term for each check -/

/-- Program P1 of 95_test_vectors.md section 6. -/
def programP1 : List HostStmt := canonicalSequence .encode ⟨121666, 0, 0, 0, 0⟩ 0 0 1 6 ++ [.halt]

theorem test_p1_well_formed : HostProgramWf programP1 := by decide

theorem test_p1_length : programP1.length = 19 := by decide

theorem test_repeated_label_refused : ¬ LabelsDistinct [.label 1, .label 1, .halt] := by decide

theorem test_missing_label_refused : ¬ LabelsDefined [.bnz 0 0 7, .halt] := by decide

theorem test_missing_halt_refused : ¬ EndsWithHalt [.halt, .label 1] := by decide

/-! ## Single steps on the spec's vectors -/

/-- The state a step left, if it left one. -/
def after (o : Host.Outcome State Fault Refusal) : Option State :=
  match o with
  | .next s => some s
  | .fault _ => none
  | .refused _ => none

/-- The reset machine with five input limbs and a command word placed for the next step. -/
def commandState (l : Limbs) (w : Nat) : State := { State.reset with inp := l }.withFetchWord 64 w

/-- 95_test_vectors.md V-R12: every lane different. -/
theorem test_reduce_lanes :
    (after (step (commandState ⟨2251799813685253, 4503599627370503, 6755399441055745, 9, 9007199254740994⟩ 1))).map
      State.out = some ⟨81, 8, 3, 12, 2⟩ := by decide

/-- 95_test_vectors.md V-R6: a parallel pass, not a ripple; OBW is not written. -/
theorem test_reduce_parallel :
    (after (step (commandState ⟨2251799813685248, 2251799813685247, 0, 0, 0⟩ 1))).map
      (fun s => (s.out, s.obw, s.statusWord)) = some (⟨0, 2251799813685248, 0, 0, 0⟩, ⟨0, 0, 0, 0⟩, 0x2) := by decide

/-- 95_test_vectors.md V-E10: the maximal input. -/
theorem test_encode_maximal :
    (after (step (commandState ⟨18446744073709551615, 18446744073709551615, 18446744073709551615,
      18446744073709551615, 18446744073709551615⟩ 2))).map (fun s => (s.out, s.obw)) =
    some (⟨155647, 8191, 8191, 8191, 8191⟩,
      ⟨0xFFF8000000025FFF, 0x0007FFC000000000, 0x0000003FFE000000, 0x0000000001FFF000⟩) := by decide

/-- 95_test_vectors.md V-E18: every limb non-zero, each straddling byte used. -/
theorem test_encode_packing :
    (after (step (commandState ⟨1, 2, 3, 4, 5⟩ 2))).map (fun s => (s.obw, s.statusWord)) =
    some (⟨0x0010000000000001, 0x000000C000000000, 0x0000000008000000, 0x0000000000005000⟩, 0x2) := by decide

/-- The placed command runs as `exec` of the decoded instruction. -/
theorem test_fetch_runs_exec :
    after (step (State.reset.withFetchWord 64 1)) =
      after (exec .reduce { State.reset.withFetchWord 64 1 with sched := [] }) := by decide

/-- 95_test_vectors.md V-C4, V-C10, V-C11: STATUS after CMD writes. -/
theorem test_cmd_write_status :
    (State.reset.cmdWrite 3).statusWord = 0x4 ∧ ((State.reset.cmdWrite 1).cmdWrite 2).statusWord = 0x9 ∧
      ((State.reset.cmdWrite 1).cmdWrite 7).statusWord = 0x9 := by decide

/-- 95_test_vectors.md V-B1, V-B5, V-B9, V-B10: bus errors of reads, in order. -/
theorem test_read_errors :
    State.reset.readWindow 0x28 8 = .error .access ∧ State.reset.readWindow 0x00 4 = .error .width ∧
      State.reset.readWindow 0x3C 8 = .error .align ∧ State.reset.readWindow 0x38 8 = .error .unmapped := by decide

/-- 95_test_vectors.md V-B2, V-B6, V-B11: bus errors of writes. -/
theorem test_write_errors :
    (State.reset.writeWindow 0x30 8 0).1 = .error .access ∧ (State.reset.writeWindow 0x31 4 0).1 = .error .width ∧
      (State.reset.writeWindow 0xF8 8 0).1 = .error .unmapped := by decide

/-- 95_test_vectors.md V-B14: IN holds any 64-bit value. -/
theorem test_write_then_read_in :
    (State.reset.writeWindow 0x18 8 0xFFFFFFFFFFFFFFFF).2.readWindow 0x18 8 = .data 0xFFFFFFFFFFFFFFFF := by decide

/-- From reset with nothing placed, a step changes nothing (log 2, 10). -/
theorem test_reset_step_idles : after (step State.reset) = some State.reset := by decide

/-! ## Witnesses: a state and operands that meet each statement's hypotheses -/

/-- A machine with a host program, a schedule and a pending command. -/
def agents (p : List HostStmt) (ts : List Turn) (pend : Option Instr) : State :=
  { State.reset with hostProg := p, sched := ts, pend := pend }

/-- The greatest limb below 2^51, five times. -/
def maxLimbs : Limbs :=
  ⟨2251799813685247, 2251799813685247, 2251799813685247, 2251799813685247, 2251799813685247⟩

/-- The limbs of p. -/
def primeLimbs : Limbs :=
  ⟨2251799813685229, 2251799813685247, 2251799813685247, 2251799813685247, 2251799813685247⟩

theorem witness_OpcodeMapByFields :
    (1 : Word).toNat % 256 = 1 ∧ (1 : Word).toNat / 256 = 0 ∧ (2 : Word).toNat % 256 = 2 ∧
    (0 : Word).toNat % 256 = 0 ∧ 3 ≤ (3 : Word).toNat % 256 ∧ 3 ≤ (0xFF : Word).toNat % 256 ∧
    (0x101 : Word).toNat % 256 = 1 ∧ (0x101 : Word).toNat / 256 ≠ 0 ∧
    (0x8000000000000002 : Word).toNat % 256 = 2 ∧ (0x8000000000000002 : Word).toNat / 256 ≠ 0 := by decide

theorem witness_ReduceOutputBounds : (4 : Fin 5) ≠ 0 := by decide

/-- Also the witness of PackingIsLittleEndianValue, PackingByteTable and SubtractPrimeGivesRemainder. -/
theorem witness_ReduceFixesArraysBelow51 : LimbsBelow51 maxLimbs ∧ LimbsBelow51 Limbs.zero := by decide

theorem witness_ReduceLanesAreParallel :
    Limbs.get ⟨1, 2, 3, 4, 5⟩ 1 = Limbs.get ⟨1, 2, 7, 7, 7⟩ 1 ∧
    Limbs.get ⟨1, 2, 3, 4, 5⟩ (1 - 1) = Limbs.get ⟨1, 2, 7, 7, 7⟩ (1 - 1) ∧
    Limbs.get ⟨1, 2, 3, 4, 5⟩ 0 = Limbs.get ⟨1, 7, 7, 7, 5⟩ 0 ∧
    Limbs.get ⟨1, 2, 3, 4, 5⟩ (0 - 1) = Limbs.get ⟨1, 7, 7, 7, 5⟩ (0 - 1) := by decide

theorem witness_DiscardedCarryIsQuotientBit :
    quotientBit (weakReduce primeLimbs) = 1 ∧ quotientBit (weakReduce Limbs.zero) = 0 := by decide

theorem witness_EncodingUniqueIffCongruent :
    primeLimbs.value % (2 ^ 255 - 19) = Limbs.zero.value % (2 ^ 255 - 19) ∧
    (canonicalEncode primeLimbs).bytes = (canonicalEncode Limbs.zero).bytes := by decide

/-- Also the witness of EncodeIsIdempotent. -/
theorem witness_TopBitCheckNeverFails : ∃ t, exec .encode State.reset = .next t := ⟨_, rfl⟩

theorem witness_CommandFrame :
    (∃ t, exec .reduce State.reset = .next t) ∧ (∃ t, exec .encode State.reset = .next t) ∧
    ¬ (0x30 ≤ 0x2F ∧ 0x2F < 0x38) ∧ ¬ (0x40 ≤ 0x68 ∧ 0x68 < 0x68) ∧ ¬ (0x80 ≤ 0xA0 ∧ 0xA0 < 0xA0) :=
  ⟨⟨_, rfl⟩, ⟨_, rfl⟩, by decide⟩

theorem witness_CompletionStep :
    (agents [] [.engine] none).takeTurn = (.engine, agents [] [] none) ∧
    (agents [] [.engine] (some .reduce)).takeTurn = (.engine, agents [] [] (some .reduce)) ∧
    (agents [] [] (some .encode)).takeTurn = (.engine, agents [] [] (some .encode)) := by decide

/-- Also the witness of CommandAccepted and CommandComputesFromIn. -/
theorem witness_StepRunsDecodedCommand :
    (agents [.wr .cmd 1] [.host, .engine] none).takeTurn = (.host, agents [.wr .cmd 1] [.engine] none) ∧
    (agents [.wr .cmd 1] [.engine] none).currentStmt = some (.wr .cmd 1) ∧ decodeCommand 1 = .ok .reduce ∧
    (1 : Word) = encode .reduce ∧
    (agents [.wr .cmd 2] [.host, .engine] none).takeTurn = (.host, agents [.wr .cmd 2] [.engine] none) ∧
    (agents [.wr .cmd 2] [.engine] none).currentStmt = some (.wr .cmd 2) ∧ decodeCommand 2 = .ok .encode ∧
    (2 : Word) = encode .encode ∧
    (agents [.wr .cmd 2] [.engine] none).pend = none ∧ (agents [.wr .cmd 2] [.engine] none).faultTopbit = false ∧
    (agents [] [.engine] (some .encode)).takeTurn = (.engine, agents [] [] (some .encode)) := by decide

theorem witness_IllegalCommandWhileIdle :
    (agents [.wr .cmd 3] [.host] none).takeTurn = (.host, agents [.wr .cmd 3] [] none) ∧
    (agents [.wr .cmd 3] [] none).currentStmt = some (.wr .cmd 3) ∧ (agents [.wr .cmd 3] [] none).pend = none ∧
    decodeCommand 3 = .error (.reservedOpcode 3) := by decide

theorem witness_CommandWhileBusyDropped :
    (agents [.wr .cmd 7] [.host] (some .reduce)).takeTurn = (.host, agents [.wr .cmd 7] [] (some .reduce)) ∧
    (agents [.wr .cmd 7] [] (some .reduce)).currentStmt = some (.wr .cmd 7) ∧
    (agents [.wr .cmd 7] [.host] (some .reduce)).done = false := by decide

theorem witness_InWriteWhileBusy :
    (agents [.wr (.inLimb 4) 7] [.host] (some .encode)).takeTurn =
      (.host, agents [.wr (.inLimb 4) 7] [] (some .encode)) ∧
    (agents [.wr (.inLimb 4) 7] [] (some .encode)).currentStmt = some (.wr (.inLimb 4) 7) := by decide

/-- Also the witness of HostTurnFrame and OnlyResetChangesFaultTopbit. -/
theorem witness_StatusReadsBusyNotDone :
    Inv (agents [.label 0] [.host] (some .encode)) ∧
    (agents [.label 0] [.host] (some .encode)).takeTurn = (.host, agents [.label 0] [] (some .encode)) ∧
    (after (step (agents [.label 0] [.host] (some .encode)))).isSome = true := by decide

theorem witness_HostTurnsCannotStopCompletion :
    (agents [.label 0] [.host] (some .reduce)).sched = List.replicate 1 .host ∧
    (∃ r, exec .reduce (agents [.label 0] [.host] (some .reduce)) = .next r) ∧
    ∃ t, Host.Core.run core 2 (agents [.label 0] [.host] (some .reduce)) = .next t :=
  ⟨rfl, ⟨_, rfl⟩, ⟨_, rfl⟩⟩

theorem witness_BackToBackCommandsHaveBothOutcomes :
    let s := agents [.wr .cmd (encode .reduce), .wr .cmd (encode .encode)] [] none
    s.pend = none ∧ s.hostHalted = false ∧ s.hostProg[s.hostPc]? = some (.wr .cmd (encode .reduce)) ∧
    s.hostProg[s.hostPc + 1]? = some (.wr .cmd (encode .encode)) := by decide

theorem witness_SameCycleCompletionFirst :
    (agents [.rd .status 0] [.engineThenHost] (some .encode)).takeTurn =
      (.engineThenHost, agents [.rd .status 0] [] (some .encode)) ∧
    (agents [.rd .status 0] [] (some .encode)).currentStmt = some (.rd .status 0) ∧
    (agents [.wr .cmd 1] [] (some .encode)).currentStmt = some (.wr .cmd 1) ∧ decodeCommand 1 = .ok .reduce ∧
    (agents [.wr .cmd 0] [] (some .encode)).currentStmt = some (.wr .cmd 0) ∧
    decodeCommand 0 = .error (.reservedOpcode 0) ∧
    (after (exec .encode (agents [] [] (some .encode)))).isSome = true := by decide

theorem witness_ResetTurn :
    (agents [.halt] [.reset] (some .reduce)).takeTurn = (.reset, agents [.halt] [] (some .reduce)) := by decide

theorem witness_ResetOverridesHostAccess :
    (agents [.wr .cmd 1] [.resetOverHost] (some .reduce)).takeTurn =
      (.resetOverHost, agents [.wr .cmd 1] [] (some .reduce)) ∧
    (agents [.wr .cmd 1] [] (some .reduce)).currentStmt = some (.wr .cmd 1) ∧
    (agents [.wrVar .cmd 1] [] (some .reduce)).currentStmt = some (.wrVar .cmd 1) ∧
    (agents [.rd .status 1] [] (some .reduce)).currentStmt = some (.rd .status 1) ∧
    (after (step (agents [.halt] [.resetOverHost] (some .reduce)))).isSome = true := by decide

/-- Also the witness of StatusWordsOfInv. -/
theorem witness_EveryStepKeepsInv :
    Inv (agents [.halt] [.engineThenHost] (some .encode)) ∧
    (after (step (agents [.halt] [.engineThenHost] (some .encode)))).isSome = true := by decide

theorem witness_BusErrorsInOrder :
    (4 : Nat) ≠ 8 ∧ (0x3C : Nat) % 8 ≠ 0 ∧ (0x38 : Nat) % 8 = 0 ∧
    (0x38 : Nat) ∉ ([0x00, 0x08, 0x10, 0x18, 0x20, 0x28, 0x30, 0x40, 0x48, 0x50, 0x58, 0x60, 0x80, 0x88, 0x90,
      0x98] : List Nat) ∧
    (0x98 : Nat) ∈ ([0x30, 0x98] : List Nat) ∧ (0x30 : Nat) ≤ 0x30 ∧ (0x28 : Nat) ≤ 0x28 := by decide

theorem witness_BusErrorIsFaultOfRun :
    (BusAccess.read (Config.base + 4) 8).inWindow = true ∧
    (State.reset.serve (.read (Config.base + 4) 8)).1 = .error .align ∧
    (BusAccess.write (Config.base + 0x31) 4 0).inWindow = true ∧
    (State.reset.serve (.write (Config.base + 0x31) 4 0)).1 = .error .width ∧
    (agents [.memRead (Config.base + 4) 8 0] [] none).takeTurn =
      (.host, agents [.memRead (Config.base + 4) 8 0] [] none) ∧
    (agents [.memRead (Config.base + 4) 8 0] [] none).currentStmt = some (.memRead (Config.base + 4) 8 0) ∧
    (agents [.memWrite (Config.base + 0x31) 4 0] [] none).currentStmt =
      some (.memWrite (Config.base + 0x31) 4 0) := by
  simp [BusAccess.inWindow, BusAccess.addr, Config.windowBytes, State.serve, State.readWindow, State.writeWindow,
    checkAccess, agents, State.takeTurn, State.reset, defaultTurn, State.currentStmt]

theorem witness_SideEffectsOfAccesses : State.reset.pend = none := rfl

theorem witness_HostStatements :
    VarsWf [(1, (1 : Word)), (2, 0xFF)] ∧
    (agents [.wrVar (.inLimb 0) 1] [.host] none).takeTurn = (.host, agents [.wrVar (.inLimb 0) 1] [] none) ∧
    (agents [.wrVar (.inLimb 0) 1] [] none).currentStmt = some (.wrVar (.inLimb 0) 1) ∧
    State.reset.readReg (.outBytes 3) = some 0 ∧
    (agents [.bnz 1 0 5, .label 5] [] none).currentStmt = some (.bnz 1 0 5) ∧
    (agents [.bnz 1 0 5, .label 5] [] none).var 1 = 0 ∧
    ({ agents [.bnz 1 0 5, .label 5] [] none with hostVars := [(1, 1)] }.var 1).getLsbD 0 = true ∧
    5 ∈ definedLabels [.bnz 1 0 5, .label 5] ∧
    (agents [.mov 1 2] [] none).currentStmt = some (.mov 1 2) ∧ (agents [.halt] [] none).currentStmt = some .halt := by
  decide

theorem witness_HostVariableStore : VarsWf [(0, (1 : Word)), (7, 2)] := by decide

theorem witness_ControlIndependentOfLimbs :
    ControlSame { State.reset with latch := maxLimbs, pend := some .encode }
      { State.reset with latch := primeLimbs, pend := some .encode } := by decide

end Sys2Proof.Tests
end

section
/-! The reducer and the encoder on integers: the sums of 41_limb_reducer.md R121 and 42_canonical_encoder.md R142 to R151
without wrap-around, and the packing of R155. -/

namespace Sys2Proof.Machine

open Safety

/-- The bounds of 41_limb_reducer.md R125 on a weakly reduced limb array; `OutInRange s` is `LimbsReduced s.out`. -/
abbrev LimbsReduced (h : Limbs) : Prop :=
  h.l0.toNat ≤ 2251799813840876 ∧ h.l1.toNat ≤ 2251799813693438 ∧ h.l2.toNat ≤ 2251799813693438 ∧
  h.l3.toNat ≤ 2251799813693438 ∧ h.l4.toNat ≤ 2251799813693438

theorem limbsReduced_of_below51 {l : Limbs} (h : LimbsBelow51 l) : LimbsReduced l := by
  obtain ⟨h0, h1, h2, h3, h4⟩ := h
  refine ⟨?_, ?_, ?_, ?_, ?_⟩ <;> omega

theorem value_lt_of_below51 {t : Limbs} (h : LimbsBelow51 t) : t.value < 2 ^ 255 := by
  obtain ⟨h0, h1, h2, h3, h4⟩ := h
  unfold Limbs.value
  omega

theorem value_lt_of_reduced {h : Limbs} (hh : LimbsReduced h) : h.value < 2 * (2 ^ 255 - 19) := by
  obtain ⟨h0, h1, h2, h3, h4⟩ := hh
  unfold Limbs.value
  omega

/-! ### The parallel pass -/

theorem toNat_low51_add_carryOf (x y : Word) :
    (low51 x + carryOf y).toNat = x.toNat % 2 ^ 51 + y.toNat / 2 ^ 51 := by
  have hx := x.isLt
  have hy := y.isLt
  rw [BitVec.toNat_add_of_lt] <;> simp only [toNat_low51, toNat_carryOf]
  omega

theorem toNat_fold_mul_of_lt {c : Word} (h : c.toNat < 2 ^ 13) : (Config.fold * c).toNat = 19 * c.toNat := by
  rw [BitVec.toNat_mul, toNat_fold]
  omega

theorem toNat_low51_add_fold_carryOf (x y : Word) :
    (low51 x + Config.fold * carryOf y).toNat = x.toNat % 2 ^ 51 + 19 * (y.toNat / 2 ^ 51) := by
  have hx := x.isLt
  have hy := y.isLt
  have hc : (Config.fold * carryOf y).toNat = 19 * (y.toNat / 2 ^ 51) := by
    rw [toNat_fold_mul_of_lt] <;> rw [toNat_carryOf]
    omega
  rw [BitVec.toNat_add_of_lt] <;> simp only [toNat_low51, hc]
  omega

theorem toNat_weakReduce (l : Limbs) :
    (weakReduce l).l0.toNat = l.l0.toNat % 2 ^ 51 + 19 * (l.l4.toNat / 2 ^ 51) ∧
    (weakReduce l).l1.toNat = l.l1.toNat % 2 ^ 51 + l.l0.toNat / 2 ^ 51 ∧
    (weakReduce l).l2.toNat = l.l2.toNat % 2 ^ 51 + l.l1.toNat / 2 ^ 51 ∧
    (weakReduce l).l3.toNat = l.l3.toNat % 2 ^ 51 + l.l2.toNat / 2 ^ 51 ∧
    (weakReduce l).l4.toNat = l.l4.toNat % 2 ^ 51 + l.l3.toNat / 2 ^ 51 :=
  ⟨toNat_low51_add_fold_carryOf .., toNat_low51_add_carryOf .., toNat_low51_add_carryOf ..,
    toNat_low51_add_carryOf .., toNat_low51_add_carryOf ..⟩

theorem weakReduce_reduced (l : Limbs) : LimbsReduced (weakReduce l) := by
  obtain ⟨h0, h1, h2, h3, h4⟩ := toNat_weakReduce l
  have := l.l0.isLt
  have := l.l1.isLt
  have := l.l2.isLt
  have := l.l3.isLt
  have := l.l4.isLt
  refine ⟨?_, ?_, ?_, ?_, ?_⟩ <;> omega

/-! ### The ripple -/

theorem toNat_add_carryOf {x y : Word} (hx : x.toNat < 2 ^ 52) :
    (x + carryOf y).toNat = x.toNat + y.toNat / 2 ^ 51 := by
  have hy := y.isLt
  rw [BitVec.toNat_add_of_lt] <;> rw [toNat_carryOf]
  omega

theorem toNat_rippleSums {h : Limbs} {q : Word} (hh : LimbsReduced h) (hq : q.toNat ≤ 1) :
    let t := rippleSums h q
    t.l0.toNat = h.l0.toNat + 19 * q.toNat ∧
    t.l1.toNat = h.l1.toNat + t.l0.toNat / 2 ^ 51 ∧
    t.l2.toNat = h.l2.toNat + t.l1.toNat / 2 ^ 51 ∧
    t.l3.toNat = h.l3.toNat + t.l2.toNat / 2 ^ 51 ∧
    t.l4.toNat = h.l4.toNat + t.l3.toNat / 2 ^ 51 := by
  obtain ⟨h0, h1, h2, h3, h4⟩ := hh
  refine ⟨?_, toNat_add_carryOf (by omega), toNat_add_carryOf (by omega), toNat_add_carryOf (by omega),
    toNat_add_carryOf (by omega)⟩
  have hf : (Config.fold * q).toNat = 19 * q.toNat := toNat_fold_mul_of_lt (by omega)
  change (h.l0 + Config.fold * q).toNat = _
  rw [BitVec.toNat_add_of_lt] <;> rw [hf]
  omega

theorem masked_below51 (t : Limbs) : LimbsBelow51 t.masked :=
  ⟨toNat_low51_lt _, toNat_low51_lt _, toNat_low51_lt _, toNat_low51_lt _, toNat_low51_lt _⟩

/-- The ripple splits h + 19q at bit 255: the masked sums below it, the discarded carry above. -/
theorem value_subtractPrime_add_discardedCarry {h : Limbs} {q : Word} (hh : LimbsReduced h) (hq : q.toNat ≤ 1) :
    (subtractPrime h q).value + 2 ^ 255 * (discardedCarry h q).toNat = h.value + 19 * q.toNat := by
  obtain ⟨t0, t1, t2, t3, t4⟩ := toNat_rippleSums hh hq
  simp only [subtractPrime, discardedCarry, Limbs.masked, Limbs.value, toNat_low51, toNat_carryOf]
  omega

theorem toNat_discardedCarry {h : Limbs} {q : Word} (hh : LimbsReduced h) (hq : q.toNat ≤ 1) :
    (discardedCarry h q).toNat = (h.value + 19 * q.toNat) / 2 ^ 255 := by
  have hv := value_subtractPrime_add_discardedCarry hh hq
  have hlt : (subtractPrime h q).value < 2 ^ 255 := value_lt_of_below51 (masked_below51 _)
  omega

/-- Step 2 of the encoder is the ripple of step 3 with q = 1. -/
theorem quotientBit_eq_discardedCarry (h : Limbs) : quotientBit h = discardedCarry h 1 := rfl

theorem toNat_quotientBit {h : Limbs} (hh : LimbsReduced h) : (quotientBit h).toNat = (h.value + 19) / 2 ^ 255 := by
  rw [quotientBit_eq_discardedCarry]
  exact toNat_discardedCarry hh (Nat.le_refl 1)

/-- h is below 2p, so subtracting p where the quotient bit is 1 leaves the remainder (42_canonical_encoder.md R149). -/
theorem value_subtractPrime_quotientBit {h : Limbs} (hh : LimbsReduced h) :
    (subtractPrime h (quotientBit h)).value = h.value % (2 ^ 255 - 19) := by
  have hlt := value_lt_of_reduced hh
  have hq := toNat_quotientBit hh
  have hv := value_subtractPrime_add_discardedCarry hh (q := quotientBit h) (by omega)
  have hd := toNat_discardedCarry hh (q := quotientBit h) (by omega)
  obtain h0 | h1 : (quotientBit h).toNat = 0 ∨ (quotientBit h).toNat = 1 := by omega
  · rw [h0] at hq hv hd
    omega
  · rw [h1] at hq hv hd
    omega

/-! ### Packing -/

/-- A field laid above a smaller number adds to it. -/
theorem or_shiftLeft_eq_add {a b i : Nat} (hb : b < 2 ^ i) : b ||| a <<< i = b + a * 2 ^ i := by
  rw [Nat.or_comm, ← Nat.shiftLeft_add_eq_or_of_lt hb, Nat.shiftLeft_eq, Nat.add_comm]

theorem toNat_limb_shiftLeft {x : Word} {i : Nat} (hx : x.toNat < 2 ^ 51) (hi : i ≤ 204) :
    (x.setWidth 256 <<< i).toNat = x.toNat <<< i := by
  have h256 : x.toNat <<< i < 2 ^ 256 := by
    calc x.toNat <<< i = x.toNat * 2 ^ i := Nat.shiftLeft_eq ..
      _ < 2 ^ 51 * 2 ^ i := by gcongr
      _ ≤ 2 ^ 51 * 2 ^ 204 := by gcongr; decide
      _ ≤ 2 ^ 256 := by decide
  have hw : (x.setWidth 256).toNat = x.toNat := BitVec.toNat_setWidth_of_le (by decide)
  rw [BitVec.toNat_shiftLeft, hw, Nat.mod_eq_of_lt h256]

theorem toNat_packLimbs {t : Limbs} (h : LimbsBelow51 t) : (packLimbs t).toNat = t.value := by
  obtain ⟨h0, h1, h2, h3, h4⟩ := h
  have hw : (t.l0.setWidth 256).toNat = t.l0.toNat := BitVec.toNat_setWidth_of_le (by decide)
  simp only [packLimbs, BitVec.toNat_or]
  rw [hw, toNat_limb_shiftLeft h1 (by decide), toNat_limb_shiftLeft h2 (by decide),
    toNat_limb_shiftLeft h3 (by decide), toNat_limb_shiftLeft h4 (by decide), or_shiftLeft_eq_add (i := 51) h0,
    or_shiftLeft_eq_add (i := 102) (by omega), or_shiftLeft_eq_add (i := 153) (by omega),
    or_shiftLeft_eq_add (i := 204) (by omega), Limbs.value]

theorem bytesValue_lt (bs : List Byte) : bytesValue bs < 2 ^ (8 * bs.length) := by
  induction bs with
  | nil => decide
  | cons b bs ih =>
    have hb := b.isLt
    have hp : 2 ^ (8 * (bs.length + 1)) = 256 * 2 ^ (8 * bs.length) := by rw [Nat.mul_succ, Nat.pow_add]; omega
    simp only [bytesValue, List.length_cons]
    omega

theorem toNat_wordOfBytes {bs : List Byte} (h : bs.length ≤ 8) : (wordOfBytes bs).toNat = bytesValue bs := by
  induction bs with
  | nil => rfl
  | cons b bs ih =>
    rw [List.length_cons] at h
    have hb := b.isLt
    have hlt : bytesValue bs < 2 ^ 56 :=
      (bytesValue_lt bs).trans_le (Nat.pow_le_pow_right (by decide) (by omega))
    have hbw : (b.setWidth 64).toNat = b.toNat := BitVec.toNat_setWidth_of_le (by decide)
    rw [wordOfBytes, BitVec.toNat_or, BitVec.toNat_shiftLeft, ih (by omega), hbw,
      Nat.mod_eq_of_lt (by rw [Nat.shiftLeft_eq]; omega), or_shiftLeft_eq_add hb, bytesValue]
    omega

/-- The k bytes of n from byte a on hold bits [8(a+k)-1 : 8a] of n. -/
theorem bytesValue_map_range' (n : BitVec 256) (a k : Nat) :
    bytesValue ((List.range' a k).map (fun j => n.extractLsb' (8 * j) 8)) = n.toNat / 2 ^ (8 * a) % 2 ^ (8 * k) := by
  induction k generalizing a with
  | zero => simp [bytesValue, Nat.mod_one]
  | succ k ih =>
    have hdiv : n.toNat / 2 ^ (8 * (a + 1)) = n.toNat / 2 ^ (8 * a) / 2 ^ 8 := by
      rw [Nat.div_div_eq_div_mul, ← Nat.pow_add, Nat.mul_succ]
    rw [List.range'_succ, List.map_cons, bytesValue, ih, BitVec.extractLsb'_toNat, Nat.shiftRight_eq_div_pow, hdiv,
      show 8 * (k + 1) = 8 + 8 * k by omega, Nat.pow_add, Nat.mod_mul]

theorem toNat_byteWord_unpackBytes (n : BitVec 256) {k : Nat} (hk : k < 4) :
    (byteWord (unpackBytes n) k).toNat = n.toNat / 2 ^ (64 * k) % 2 ^ 64 := by
  have hbs : ((unpackBytes n).drop (8 * k)).take 8 =
      (List.range' (8 * k) 8).map (fun j => n.extractLsb' (8 * j) 8) := by
    rw [unpackBytes, List.range_eq_range', ← List.map_drop, ← List.map_take, List.drop_range',
      List.take_range'_of_length_ge (by omega), Nat.mul_one, Nat.zero_add]
  rw [byteWord, hbs, toNat_wordOfBytes (by simp), bytesValue_map_range', ← Nat.mul_assoc]

theorem value_byteWords_unpackBytes (n : BitVec 256) : (byteWords (unpackBytes n)).value = n.toNat := by
  have hn := n.isLt
  simp only [ByteWords.value, byteWords]
  rw [toNat_byteWord_unpackBytes n (by decide), toNat_byteWord_unpackBytes n (by decide),
    toNat_byteWord_unpackBytes n (by decide), toNat_byteWord_unpackBytes n (by decide)]
  omega

theorem topBit_unpackBytes (n : BitVec 256) : topBit (unpackBytes n) = n.getLsbD 255 := by
  have hb : (unpackBytes n).getD 31 0 = n.extractLsb' 248 8 := rfl
  rw [topBit, hb]
  simp

/-! ### The encoder as a whole -/

theorem canonicalEncode_below51 (l : Limbs) : LimbsBelow51 (canonicalEncode l).limbs := masked_below51 _

theorem value_canonicalEncode (l : Limbs) :
    (canonicalEncode l).limbs.value = (weakReduce l).value % (2 ^ 255 - 19) :=
  value_subtractPrime_quotientBit (weakReduce_reduced l)

theorem value_byteWords_canonicalEncode (l : Limbs) :
    (byteWords (canonicalEncode l).bytes).value = (canonicalEncode l).limbs.value :=
  (value_byteWords_unpackBytes _).trans (toNat_packLimbs (canonicalEncode_below51 l))

theorem value_byteWords_canonicalEncode_lt (l : Limbs) :
    (byteWords (canonicalEncode l).bytes).value < Config.fieldPrime := by
  rw [value_byteWords_canonicalEncode, value_canonicalEncode]
  exact Nat.mod_lt _ (by decide)

/-- The packed value is below 2^255, so its top bit is 0 (42_canonical_encoder.md R157). -/
theorem canonicalEncode_top_eq_false (l : Limbs) : (canonicalEncode l).top = false := by
  have hlt : (packLimbs (canonicalEncode l).limbs).toNat < 2 ^ 255 := by
    rw [toNat_packLimbs (canonicalEncode_below51 l)]
    exact value_lt_of_below51 (canonicalEncode_below51 l)
  exact (topBit_unpackBytes _).trans (Nat.testBit_lt_two_pow hlt)

end Sys2Proof.Machine
end

section
/-! What a completion, a host turn and a step can do, said once: a host turn is an access that the engine answers and a
move of the host. -/

namespace Sys2Proof.Machine

open Safety

/-! ### The completion -/

@[simp] theorem State.noteTopbit_false (s : State) : s.noteTopbit false = s := by simp [State.noteTopbit]

/-- The two completions (40_command_protocol.md R106), with the top-bit check of ENCODE resolved: it never fails. -/
theorem exec_cases {i : Instr} {s t : State} (h : exec i s = .next t) :
    (i = .reduce ∧ t = (s.setOut (weakReduce s.latch)).finishCommand) ∨
    (i = .encode ∧ t = ((s.setOut (canonicalEncode s.latch).limbs).setObw
      (byteWords (canonicalEncode s.latch).bytes)).finishCommand) := by
  cases i with
  | reduce => cases h; exact .inl ⟨rfl, rfl⟩
  | encode => cases h; exact .inr ⟨rfl, by rw [canonicalEncode_top_eq_false, State.noteTopbit_false]⟩

theorem exec_frame {i : Instr} {s t : State} (h : exec i s = .next t) :
    t.pend = none ∧ t.done = true ∧ t.errCmd = s.errCmd ∧ t.errBusy = s.errBusy ∧ t.faultTopbit = s.faultTopbit ∧
    t.hostVars = s.hostVars := by
  obtain ⟨-, rfl⟩ | ⟨-, rfl⟩ := exec_cases h <;> simp

/-! ### The two halves of a host turn -/

/-- The engine's part of a host access: nothing, an IN write or a CMD write (20_memory.md R56, R57). -/
inductive EngineEffect (s : State) : State → Prop where
  | none : EngineEffect s s
  | setIn (i : Fin 5) (v : Word) : EngineEffect s (s.setIn i v)
  | cmdWrite (v : Word) : EngineEffect s (s.cmdWrite v)

/-- The host's own part of its turn (30_encoding.md R87). -/
inductive HostMove (s : State) : State → Prop where
  | stay : HostMove s s
  | advance : HostMove s s.advance
  | jump (k : Nat) : HostMove s (s.hostJump k)
  | setVar (x : Nat) (w : Word) : HostMove s (s.setVar x w).advance
  | halt : HostMove s s.haltHost

/-- The statements that write on the bus. -/
inductive IsWrite : HostStmt → Prop where
  | wr (r : WindowReg) (v : Word) : IsWrite (.wr r v)
  | wrVar (r : WindowReg) (x : Nat) : IsWrite (.wrVar r x)
  | memWrite (addr size : Nat) (v : Word) : IsWrite (.memWrite addr size v)

theorem serve_engineEffect (s : State) (a : BusAccess) : EngineEffect s (s.serve a).2 := by
  obtain h | ⟨i, -, -, v, -, -, h⟩ | ⟨-, -, v, -, -, h⟩ := s.serve_cases a
  · rw [h]; exact .none
  · rw [h]; exact .setIn i v
  · rw [h]; exact .cmdWrite v

theorem hostMove_setDest (s : State) (dst : Option Nat) (v : Word) : HostMove s (s.setDest dst v).advance := by
  cases dst with
  | none => exact .advance
  | some n => exact .setVar n v

theorem busTurn_hostMove {a : BusAccess} {dst : Option Nat} {s t : State} (h : busTurn a dst s = .next t) :
    HostMove (s.serve a).2 t := by
  obtain ⟨-, ⟨-, rfl⟩ | ⟨v, -, rfl⟩⟩ := busTurn_cases h
  · exact .advance
  · exact hostMove_setDest ..

/-- What a host turn can do. The engine is touched by a statement that writes, and by no other. -/
theorem hostTurn_cases {s t : State} (h : hostTurn s = .next t) :
    HostMove s t ∨ ∃ st e, s.currentStmt = some st ∧ IsWrite st ∧ EngineEffect s e ∧ HostMove e t := by
  unfold hostTurn at h
  split at h
  next => cases h; exact .inl .stay
  next st hst =>
    obtain ⟨a, dst, hbus, hkind⟩ | rfl | ⟨k, rfl⟩ | ⟨x, w, rfl⟩ | rfl := hostStatement_cases h
    · have hmove := busTurn_hostMove hbus
      have heff := serve_engineEffect s a
      obtain ⟨r, v, rfl⟩ | ⟨r, x, rfl⟩ | ⟨addr, n, v, rfl⟩ | ⟨addr, n, rfl⟩ := hkind
      · exact .inr ⟨_, _, hst, .wr r v, heff, hmove⟩
      · exact .inr ⟨_, _, hst, .wrVar r x, heff, hmove⟩
      · exact .inr ⟨_, _, hst, .memWrite addr n v, heff, hmove⟩
      · exact .inl hmove
    · exact .inl .advance
    · exact .inl (.jump k)
    · exact .inl (.setVar x w)
    · exact .inl .halt

theorem hostTurn_effect {s t : State} (h : hostTurn s = .next t) : ∃ e, EngineEffect s e ∧ HostMove e t := by
  obtain hmove | ⟨-, e, -, -, heff, hmove⟩ := hostTurn_cases h
  · exact ⟨s, .none, hmove⟩
  · exact ⟨e, heff, hmove⟩

/-- In a reset cycle the host's turn is a move of the host alone, with or without a free value used
(60_exceptions.md R188). -/
theorem hostTurnInReset_cases {s t : State} (h : hostTurnInReset s = .next t) :
    HostMove s t ∨ HostMove s.countFree t := by
  unfold hostTurnInReset at h
  split at h
  next => cases h; exact .inl .stay
  next =>
    obtain ⟨a, dst, hlost, -⟩ | rfl | ⟨k, rfl⟩ | ⟨x, w, rfl⟩ | rfl := hostStatement_cases h
    · obtain ⟨-, ⟨-, rfl⟩ | ⟨n, -, rfl⟩⟩ := lostTurn_cases hlost
      · exact .inl .advance
      · exact .inr (.setVar n _)
    · exact .inl .advance
    · exact .inl (.jump k)
    · exact .inl (.setVar x w)
    · exact .inl .halt

/-! ### What the two halves leave unchanged -/

theorem HostMove.frame {s t : State} (h : HostMove s t) :
    EngineSame s t ∧ t.hostProg = s.hostProg ∧ t.sched = s.sched ∧ t.freeCount = s.freeCount := by
  cases h <;> simp [EngineSame]

theorem HostMove.varsWf {s t : State} (h : HostMove s t) (hv : VarsWf s.hostVars) : VarsWf t.hostVars := by
  cases h with
  | stay => exact hv
  | advance => exact hv
  | jump k => exact hv
  | setVar x w => exact varWrite_wf x w hv
  | halt => exact hv

theorem EngineEffect.frame {s t : State} (h : EngineEffect s t) :
    t.out = s.out ∧ t.obw = s.obw ∧ t.faultTopbit = s.faultTopbit ∧ t.hostProg = s.hostProg ∧ t.sched = s.sched ∧
    t.freeCount = s.freeCount ∧ t.hostVars = s.hostVars := by
  cases h with
  | none => simp
  | setIn i v => simp
  | cmdWrite v => obtain ⟨i, -, h⟩ | ⟨i, -, -, h⟩ | ⟨e, -, -, h⟩ := s.cmdWrite_cases v <;> simp [h]

theorem State.cmdWrite_of_pend {s : State} {i : Instr} (v : Word) (hp : s.pend = some i) :
    s.cmdWrite v = s.raiseErrBusy := by
  simp only [State.cmdWrite, hp]

/-- With a command pending, an access reaches IN and ERR_BUSY alone (40_command_protocol.md R103, R104). -/
theorem EngineEffect.pending {s t : State} {i : Instr} (h : EngineEffect s t) (hp : s.pend = some i) :
    t.pend = some i ∧ t.latch = s.latch ∧ t.done = s.done ∧ t.errCmd = s.errCmd := by
  cases h with
  | none => simp [hp]
  | setIn i v => simp [hp]
  | cmdWrite v => simp [State.cmdWrite_of_pend v hp, hp]

theorem hostTurn_frame {s t : State} (h : hostTurn s = .next t) :
    t.out = s.out ∧ t.obw = s.obw ∧ t.faultTopbit = s.faultTopbit ∧ t.hostProg = s.hostProg ∧ t.sched = s.sched ∧
    t.freeCount = s.freeCount := by
  obtain ⟨e, heff, hmove⟩ := hostTurn_effect h
  obtain ⟨hout, hobw, htop, hprog, hsched, hfree, -⟩ := heff.frame
  obtain ⟨⟨-, hout', hobw', -, -, -, htop', -, -⟩, hprog', hsched', hfree'⟩ := hmove.frame
  exact ⟨hout'.trans hout, hobw'.trans hobw, htop'.trans htop, hprog'.trans hprog, hsched'.trans hsched,
    hfree'.trans hfree⟩

theorem hostTurn_pending {s t : State} {i : Instr} (h : hostTurn s = .next t) (hp : s.pend = some i) :
    t.pend = some i ∧ t.latch = s.latch ∧ t.done = s.done ∧ t.errCmd = s.errCmd := by
  obtain ⟨e, heff, hmove⟩ := hostTurn_effect h
  obtain ⟨hpend, hlatch, hdone, hcmd⟩ := heff.pending hp
  obtain ⟨⟨-, -, -, hdone', hcmd', -, -, hpend', hlatch'⟩, -⟩ := hmove.frame
  exact ⟨hpend'.trans hpend, hlatch'.trans hlatch, hdone'.trans hdone, hcmd'.trans hcmd⟩

theorem hostTurn_engineSame {s t : State} (h : hostTurn s = .next t)
    (hw : ∀ st, s.currentStmt = some st → ¬ IsWrite st) : EngineSame s t := by
  obtain hmove | ⟨st, -, hst, hwrite, -⟩ := hostTurn_cases h
  · obtain ⟨hsame, -⟩ := hmove.frame
    exact hsame
  · exact absurd hwrite (hw st hst)

/-! ### Turns and steps -/

theorem runTurn_engineThenHost_cases {s t : State} (h : runTurn .engineThenHost s = .next t) :
    ∃ r, engineTurn s = .next r ∧ hostTurn r = .next t := by
  obtain ⟨r, hr⟩ := engineTurn_next s
  exact ⟨r, hr, (runTurn_engineThenHost hr).symm.trans h⟩

/-- A step runs the next turn on a state that differs in the schedule alone. -/
theorem step_cases {s t : State} (h : step s = .next t) :
    ∃ u, u = { s with sched := u.sched } ∧ runTurn s.takeTurn.1 u = .next t :=
  ⟨s.takeTurn.2, takeTurn_eq rfl, h⟩

/-- Settles O35: a host turn is an access of the engine and a move of the host, and each has its frame. -/
theorem hostTurnFrame : Obligations.HostTurnFrame := by
  intro s u t ht h
  have hrun : hostTurn u = .next t := (step_eq_runTurn ht).symm.trans h
  have hu := takeTurn_eq ht
  generalize u.sched = rest at hu
  subst hu
  obtain ⟨hout, hobw, htop, hprog, hsched, hfree⟩ := hostTurn_frame hrun
  have hpending := fun i => hostTurn_pending (i := i) hrun
  have hsame := hostTurn_engineSame hrun
  refine ⟨hout, hobw, htop, hprog, hsched, hfree, hpending, fun hwr hwrVar hmem => hsame fun st hst hwrite => ?_⟩
  cases hwrite with
  | wr r v => exact hwr r v hst
  | wrVar r x => exact hwrVar r x hst
  | memWrite addr n v => exact hmem addr n v hst

end Sys2Proof.Machine
end

section
/-! The invariant (10_state.md R23 to R32), kept by each half of each turn, and FAULT_TOPBIT by itself. -/

namespace Sys2Proof.Machine

open Safety

/-! ### Completion -/

theorem exec_outInRange {i : Instr} {s t : State} (h : exec i s = .next t) : OutInRange t := by
  obtain ⟨-, rfl⟩ | ⟨-, rfl⟩ := exec_cases h
  · exact weakReduce_reduced s.latch
  · exact limbsReduced_of_below51 (canonicalEncode_below51 s.latch)

theorem exec_encodingCanonical {i : Instr} {s t : State} (h : exec i s = .next t) (hs : EncodingCanonical s) :
    EncodingCanonical t := by
  obtain ⟨-, rfl⟩ | ⟨-, rfl⟩ := exec_cases h
  · exact hs
  · exact value_byteWords_canonicalEncode_lt s.latch

/-- A pending command has ERR_CMD clear, so the DONE that its completion sets does not stand beside ERR_CMD. -/
theorem exec_keeps_inv {i : Instr} {s t : State} (hp : s.pend = some i) (hi : Inv s) (h : exec i s = .next t) :
    Inv t := by
  obtain ⟨⟨hbusy, -, -, hfault⟩, -, hobw, hvars⟩ := hi
  obtain ⟨hpend, hdone, hcmd, -, htop, hv⟩ := exec_frame h
  obtain ⟨-, herr⟩ := hbusy (by simp [State.busy, hp])
  refine ⟨⟨?_, ?_, fun _ => .inr hdone, htop.trans hfault⟩, exec_outInRange h, exec_encodingCanonical h hobw,
    hv ▸ hvars⟩
  · simp [State.busy, hpend]
  · simp [hcmd, herr]

theorem engineTurn_keeps_inv {s t : State} (hi : Inv s) (h : engineTurn s = .next t) : Inv t := by
  obtain ⟨-, hidle⟩ | ⟨i, hp, hexec⟩ := engineTurn_cases s
  · cases hidle.symm.trans h
    exact hi
  · exact exec_keeps_inv hp hi (hexec.symm.trans h)

/-! ### Host turns -/

theorem cmdWrite_statusLegal {s : State} (v : Word) (h : StatusLegal s) : StatusLegal (s.cmdWrite v) := by
  obtain ⟨hbusy, -, -, hfault⟩ := h
  obtain ⟨i, hp, hw⟩ | ⟨i, hp, -, hw⟩ | ⟨e, hp, -, hw⟩ := s.cmdWrite_cases v
  · obtain ⟨hdone, hcmd⟩ := hbusy (by simp [State.busy, hp])
    simp [hw, StatusLegal, State.busy, hp, hdone, hcmd, hfault]
  · simp [hw, StatusLegal, hfault]
  · simp [hw, StatusLegal, State.busy, hp, hfault]

theorem EngineEffect.keeps_inv {s t : State} (h : EngineEffect s t) (hi : Inv s) : Inv t := by
  obtain ⟨hout, hobw, -, -, -, -, hv⟩ := h.frame
  obtain ⟨hstatus, hrange, hcanon, hvars⟩ := hi
  have hs : StatusLegal t := by
    cases h with
    | none => exact hstatus
    | setIn i v => exact hstatus
    | cmdWrite v => exact cmdWrite_statusLegal v hstatus
  exact ⟨hs, by rwa [OutInRange, hout], by rwa [EncodingCanonical, hobw], hv ▸ hvars⟩

theorem HostMove.keeps_inv {s t : State} (h : HostMove s t) (hi : Inv s) : Inv t := by
  obtain ⟨⟨-, hout, hobw, hdone, hcmd, hbusy, htop, hpend, -⟩, -⟩ := h.frame
  obtain ⟨hstatus, hrange, hcanon, hvars⟩ := hi
  refine ⟨?_, by rwa [OutInRange, hout], by rwa [EncodingCanonical, hobw], h.varsWf hvars⟩
  rwa [StatusLegal, State.busy, hdone, hcmd, hbusy, htop, hpend]

theorem hostTurn_keeps_inv {s t : State} (hi : Inv s) (h : hostTurn s = .next t) : Inv t := by
  obtain ⟨e, heff, hmove⟩ := hostTurn_effect h
  exact hmove.keeps_inv (heff.keeps_inv hi)

theorem hostTurnInReset_keeps_inv {s t : State} (hi : Inv s) (h : hostTurnInReset s = .next t) : Inv t := by
  obtain hmove | hmove := hostTurnInReset_cases h
  · exact hmove.keeps_inv hi
  · exact hmove.keeps_inv (s := s.countFree) hi

/-! ### Reset, and every turn -/

/-- Of the invariant, a reset of the engine needs the host's part alone. -/
theorem resetEngine_inv {s : State} (hv : VarsWf s.hostVars) : Inv s.resetEngine := by
  have hobw : ByteWords.zero.value < Config.fieldPrime := by decide
  exact ⟨by simp [StatusLegal, State.busy], by simp [OutInRange, Limbs.zero], hobw, hv⟩

/-- Settles O41: the reset state is an engine just reset, with a host that has no variables. -/
theorem invAtReset : Obligations.InvAtReset := resetEngine_inv (s := State.reset) (by decide)

theorem runTurn_keeps_inv {turn : Turn} {s t : State} (hi : Inv s) (h : runTurn turn s = .next t) : Inv t := by
  have hreset : Inv s.resetEngine := by
    obtain ⟨-, -, -, hvars⟩ := hi
    exact resetEngine_inv hvars
  cases turn with
  | engine => exact engineTurn_keeps_inv hi h
  | host => exact hostTurn_keeps_inv hi h
  | reset => cases h; exact hreset
  | engineThenHost =>
    obtain ⟨r, hengine, hhost⟩ := runTurn_engineThenHost_cases h
    exact hostTurn_keeps_inv (engineTurn_keeps_inv hi hengine) hhost
  | resetOverHost => exact hostTurnInReset_keeps_inv hreset h

/-- Settles O42: the invariant does not look at the schedule, and every turn keeps it. -/
theorem everyStepKeepsInv : Obligations.EveryStepKeepsInv := by
  intro s t hi h
  obtain ⟨u, hu, hrun⟩ := step_cases h
  have hiu : Inv u := by rw [hu]; exact hi
  exact runTurn_keeps_inv hiu hrun

/-! ### FAULT_TOPBIT -/

theorem engineTurn_faultTopbit {s t : State} (h : engineTurn s = .next t) : t.faultTopbit = s.faultTopbit := by
  obtain ⟨-, hidle⟩ | ⟨i, -, hexec⟩ := engineTurn_cases s
  · cases hidle.symm.trans h
    rfl
  · obtain ⟨-, -, -, -, htop, -⟩ := exec_frame (hexec.symm.trans h)
    exact htop

theorem hostTurn_faultTopbit {s t : State} (h : hostTurn s = .next t) : t.faultTopbit = s.faultTopbit := by
  obtain ⟨-, -, htop, -⟩ := hostTurn_frame h
  exact htop

theorem hostTurnInReset_faultTopbit {s t : State} (h : hostTurnInReset s = .next t) :
    t.faultTopbit = s.faultTopbit := by
  obtain hmove | hmove := hostTurnInReset_cases h <;>
    obtain ⟨⟨-, -, -, -, -, -, htop, -⟩, -⟩ := hmove.frame <;> exact htop

theorem runTurn_faultTopbit {turn : Turn} {s t : State} (h : runTurn turn s = .next t) :
    t.faultTopbit = s.faultTopbit ∨ (t.faultTopbit = false ∧ (turn = .reset ∨ turn = .resetOverHost)) := by
  cases turn with
  | engine => exact .inl (engineTurn_faultTopbit h)
  | host => exact .inl (hostTurn_faultTopbit h)
  | reset => cases h; exact .inr ⟨rfl, .inl rfl⟩
  | engineThenHost =>
    obtain ⟨r, hengine, hhost⟩ := runTurn_engineThenHost_cases h
    exact .inl ((hostTurn_faultTopbit hhost).trans (engineTurn_faultTopbit hengine))
  | resetOverHost => exact .inr ⟨hostTurnInReset_faultTopbit h, .inr rfl⟩

/-- Settles O40: the engine's turn keeps the flag because the top-bit check never fails, the host's because it never
writes it. -/
theorem onlyResetChangesFaultTopbit : Obligations.OnlyResetChangesFaultTopbit := by
  intro s t h
  obtain ⟨u, hu, hrun⟩ := step_cases h
  have htop : u.faultTopbit = s.faultTopbit := by rw [hu]
  rw [← htop]
  exact runTurn_faultTopbit hrun

end Sys2Proof.Machine
end

section
/-! The STATUS word (10_state.md R27 to R33): its bits, its values in states of the invariant, and reset. -/

namespace Sys2Proof.Machine

open Safety

theorem getLsbD_flagBit {i : Nat} (hi : i < 64) (f : Bool) (b : Nat) :
    (flagBit f i).getLsbD b = (decide (b = i) && f) := by
  obtain hlt | rfl | hgt := Nat.lt_trichotomy b i
  · simp [flagBit, hlt, hlt.ne]
  · simp [flagBit, hi]
  · have h0 : b - i ≠ 0 := by omega
    simp [flagBit, hgt.ne', h0]

theorem getLsbD_statusWord (s : State) (b : Nat) :
    s.statusWord.getLsbD b =
      ((decide (b = 4) && s.faultTopbit) || (decide (b = 3) && s.errBusy) || (decide (b = 2) && s.errCmd) ||
        (decide (b = 1) && s.done) || (decide (b = 0) && s.busy)) := by
  simp only [State.statusWord, BitVec.getLsbD_or]
  rw [getLsbD_flagBit (by decide), getLsbD_flagBit (by decide), getLsbD_flagBit (by decide),
    getLsbD_flagBit (by decide), getLsbD_flagBit (by decide)]

theorem State.busy_eq_decide (s : State) : s.busy = decide (s.pend ≠ none) := by
  cases hp : s.pend <;> simp [State.busy, hp]

/-- Settles O50: a bit of STATUS is the flag at its place, and no flag stands from bit 5 up. -/
theorem statusFields : Obligations.StatusFields := by
  intro s
  simp only [getLsbD_statusWord, ← State.busy_eq_decide]
  refine ⟨by simp, by simp, by simp, by simp, by simp, fun b hb => ?_⟩
  have hne : b ≠ 0 ∧ b ≠ 1 ∧ b ≠ 2 ∧ b ≠ 3 ∧ b ≠ 4 := by omega
  simp [hne]

/-- Settles O43: a pending command leaves ERR_BUSY free (0x1, 0x9), an illegal one stands alone (0x4), a completed one
leaves ERR_BUSY free (0x2, 0xA), and otherwise nothing is set. -/
theorem statusWordsOfInv : Obligations.StatusWordsOfInv := by
  intro s hi
  obtain ⟨⟨hbusy, hcmd, herr, htop⟩, -⟩ := hi
  rw [State.statusWord, htop]
  cases hb : s.busy with
  | true =>
    obtain ⟨hdone, hcmd⟩ := hbusy hb
    rw [hdone, hcmd]
    cases s.errBusy <;> decide
  | false =>
    cases hc : s.errCmd with
    | true =>
      obtain ⟨hdone, herr⟩ := hcmd hc
      rw [hdone, herr]
      decide
    | false =>
      cases hd : s.done with
      | true => cases s.errBusy <;> decide
      | false =>
        have he : s.errBusy = false := by simpa [hb, hd] using herr
        rw [he]
        decide

/-- Settles O37: the reset values are literals, and both commands give zero on zero. -/
theorem engineIdleAfterReset : Obligations.EngineIdleAfterReset :=
  ⟨by decide, by decide, by decide, by decide⟩

end Sys2Proof.Machine
end

section
/-! The register map (20_memory.md R51), the answer to every access by offset and size (R52 to R57), and what accesses
do when they are repeated (R63). -/

namespace Sys2Proof.Machine

/-! ### The register map -/

theorem WindowReg.at?_eq_some_iff {off : Nat} {r : WindowReg} : WindowReg.at? off = some r ↔ off = r.offset := by
  refine ⟨fun h => ?_, fun h => h ▸ r.at?_offset⟩
  unfold WindowReg.at? at h
  split at h <;> cases h <;> rfl

theorem WindowReg.mem_offsets_iff {off : Nat} :
    off ∈ ([0x00, 0x08, 0x10, 0x18, 0x20, 0x28, 0x30, 0x40, 0x48, 0x50, 0x58, 0x60, 0x80, 0x88, 0x90,
      0x98] : List Nat) ↔ ∃ r : WindowReg, off = r.offset := by
  constructor
  · intro h
    have hsome : (WindowReg.at? off).isSome = true := by
      revert off
      decide
    obtain ⟨r, hr⟩ := Option.isSome_iff_exists.mp hsome
    exact ⟨r, WindowReg.at?_eq_some_iff.mp hr⟩
  · rintro ⟨r, rfl⟩
    cases r with
    | inLimb i => revert i; decide
    | cmd => decide
    | status => decide
    | outLimb i => revert i; decide
    | outBytes k => revert k; decide

theorem WindowReg.writable_iff (r : WindowReg) : r.writable = true ↔ r = .cmd ∨ ∃ i, r = .inLimb i := by
  cases r <;> simp [WindowReg.writable]

/-- The writable registers are those of the window's first six words. -/
theorem WindowReg.writable_iff_offset_le (r : WindowReg) : r.writable = true ↔ r.offset ≤ 0x28 := by
  cases r with
  | inLimb i => simp [WindowReg.writable, WindowReg.offset]; omega
  | cmd => decide
  | status => decide
  | outLimb i => simp [WindowReg.writable, WindowReg.offset]; omega
  | outBytes k => simp [WindowReg.writable, WindowReg.offset]; omega

theorem State.isSome_readReg_iff (s : State) (r : WindowReg) : (s.readReg r).isSome = true ↔ r ≠ .cmd := by
  cases r <;> simp [State.readReg]

/-- Settles O44: the offsets and the access column, each by the lemma about its function. -/
theorem registerMap : Obligations.RegisterMap :=
  ⟨fun _ _ => WindowReg.at?_eq_some_iff, fun _ => ⟨(Nat.zero_add _).symm, rfl⟩, rfl, rfl, fun _ => rfl,
    State.isSome_readReg_iff, WindowReg.writable_iff⟩

/-! ### The checks and the answers by offset -/

theorem checkAccess_width {off size : Nat} (h : size ≠ 8) : checkAccess off size = .error .width := by
  simp [checkAccess, h]

theorem checkAccess_align {off : Nat} (h : off % 8 ≠ 0) : checkAccess off 8 = .error .align := by
  simp [checkAccess, h]

theorem checkAccess_unmapped {off : Nat} (ha : off % 8 = 0) (h : ∀ r : WindowReg, off ≠ r.offset) :
    checkAccess off 8 = .error .unmapped := by
  have hnone : WindowReg.at? off = none :=
    Option.eq_none_iff_forall_ne_some.mpr fun r hr => h r (WindowReg.at?_eq_some_iff.mp hr)
  simp [checkAccess, ha, hnone]

/-- A failed check is the answer to a read and to a write, and the write has no effect. -/
theorem State.access_of_check_error (s : State) {off size : Nat} {k : BusErrorKind} (v : Word)
    (h : checkAccess off size = .error k) :
    s.readWindow off size = .error k ∧ s.writeWindow off size v = (.error k, s) := by
  simp [State.readWindow, State.writeWindow, h]

theorem State.readWindow_offset {s : State} {r : WindowReg} {w : Word} (h : s.readReg r = some w) :
    s.readWindow r.offset 8 = .data w := by
  simp [State.readWindow, h]

theorem State.writeWindow_offset (s : State) (r : WindowReg) (v : Word) :
    s.writeWindow r.offset 8 v = if r.writable then (.ack, s.writeReg v r) else (.error .access, s) := by
  simp [State.writeWindow]

/-- Settles O45: a failed check answers for reads and writes alike; an offset that passes is a register's, and then the
access column decides. -/
theorem busErrorsInOrder : Obligations.BusErrorsInOrder := by
  intro s off size v mapped
  refine ⟨fun hsize => s.access_of_check_error v (checkAccess_width hsize), ?_, ?_, ?_, ?_, ?_, ?_⟩ <;> rintro rfl
  · exact fun halign => s.access_of_check_error v (checkAccess_align halign)
  · intro halign hmapped
    exact s.access_of_check_error v
      (checkAccess_unmapped halign fun r hr => hmapped (WindowReg.mem_offsets_iff.mpr ⟨r, hr⟩))
  · rintro rfl
    rfl
  · intro hmapped hoff
    obtain ⟨r, rfl⟩ := WindowReg.mem_offsets_iff.mp hmapped
    have hro : ¬ r.writable = true := by rw [r.writable_iff_offset_le]; omega
    rw [s.writeWindow_offset, if_neg hro]
  · intro hmapped hoff
    obtain ⟨r, rfl⟩ := WindowReg.mem_offsets_iff.mp hmapped
    have hcmd : r ≠ .cmd := fun h => hoff (h ▸ rfl)
    obtain ⟨w, hw⟩ := Option.isSome_iff_exists.mp ((s.isSome_readReg_iff r).mpr hcmd)
    exact ⟨w, State.readWindow_offset hw⟩
  · intro hmapped hoff
    obtain ⟨r, rfl⟩ := WindowReg.mem_offsets_iff.mp hmapped
    rw [s.writeWindow_offset, if_pos (r.writable_iff_offset_le.mpr hoff)]

/-! ### Reads -/

theorem State.serve_read_of_readReg {s : State} {r : WindowReg} {w : Word} (h : s.readReg r = some w) :
    s.serve (.read r.addr 8) = (.data w, s) := by
  rw [State.serve_read_addr, h]

/-- Flags at different places add up. -/
theorem toNat_or_flagBits (f₄ f₃ f₂ f₁ f₀ : Bool) :
    (flagBit f₄ 4 ||| flagBit f₃ 3 ||| flagBit f₂ 2 ||| flagBit f₁ 1 ||| flagBit f₀ 0).toNat =
      (if f₄ then 16 else 0) + (if f₃ then 8 else 0) + (if f₂ then 4 else 0) + (if f₁ then 2 else 0) +
        (if f₀ then 1 else 0) := by
  revert f₄ f₃ f₂ f₁ f₀
  decide

theorem toNat_statusWord (s : State) :
    s.statusWord.toNat = (if s.faultTopbit then 16 else 0) + (if s.errBusy then 8 else 0) +
      (if s.errCmd then 4 else 0) + (if s.done then 2 else 0) + (if s.pend = none then 0 else 1) := by
  rw [State.statusWord, toNat_or_flagBits, State.busy_eq_decide]
  by_cases hp : s.pend = none <;> simp [hp]

/-- Settles O46: each address is a register's, and STATUS is the sum of its flags. -/
theorem readReturnsRegister : Obligations.ReadReturnsRegister := by
  intro s
  refine ⟨fun k => State.serve_read_of_readReg (r := .inLimb k) rfl, fun k => ?_, fun k => ?_,
    ⟨s.statusWord, State.serve_read_of_readReg (r := .status) rfl, toNat_statusWord s⟩, fun _ _ => rfl⟩
  · rw [Nat.add_assoc]
    exact State.serve_read_of_readReg (r := .outLimb k) rfl
  · rw [Nat.add_assoc]
    exact State.serve_read_of_readReg (r := .outBytes k) rfl

/-! ### Repeated accesses -/

theorem State.serve_write_inLimb (s : State) (k : Fin 5) (v : Word) :
    s.serve (.write (Config.base + 8 * k.val) 8 v) = (.ack, s.setIn k v) :=
  s.serve_write_addr (.inLimb k) v

@[simp] theorem State.setIn_setIn (s : State) (i : Fin 5) (v w : Word) : (s.setIn i v).setIn i w = s.setIn i w := by
  simp [State.setIn]

@[simp] theorem decodeCommand_encode (i : Instr) : decodeCommand (encode i) = .ok i := by
  cases i <;> decide

theorem State.cmdWrite_encode {s : State} (i : Instr) (hp : s.pend = none) :
    s.cmdWrite (encode i) = s.acceptCommand i := by
  simp [State.cmdWrite, hp]

/-- Settles O49: a read has no effect, the second write of IN[k] overwrites the first, and the second command word finds
the first one pending and raises ERR_BUSY. -/
theorem sideEffectsOfAccesses : Obligations.SideEffectsOfAccesses := by
  refine ⟨fun _ _ _ => rfl, fun s k v => ?_, fun s i hp hsame => ?_⟩
  · simp only [State.serve_write_inLimb, State.setIn_setIn]
  · rw [State.cmdWrite_encode i hp, State.cmdWrite_of_pend _ (s.acceptCommand_pend i)] at hsame
    have hflag := congrArg State.errBusy hsame
    simp at hflag

end Sys2Proof.Machine
end

section
/-! One command from its CMD write to its results (40_command_protocol.md R101, R106). -/

namespace Sys2Proof.Machine

/-! ### The results -/

theorem value_weakReduce (l : Limbs) :
    (weakReduce l).value + l.l4.toNat / 2 ^ 51 * (2 ^ 255 - 19) = l.value := by
  obtain ⟨h0, h1, h2, h3, h4⟩ := toNat_weakReduce l
  simp only [Limbs.value, h0, h1, h2, h3, h4]
  omega

theorem value_weakReduce_mod (l : Limbs) : (weakReduce l).value % (2 ^ 255 - 19) = l.value % (2 ^ 255 - 19) := by
  rw [← value_weakReduce l, Nat.add_mul_mod_self_right]

theorem exec_value_mod {i : Instr} {s t : State} (h : exec i s = .next t) :
    t.out.value % (2 ^ 255 - 19) = s.latch.value % (2 ^ 255 - 19) := by
  obtain ⟨-, rfl⟩ | ⟨-, rfl⟩ := exec_cases h
  · exact value_weakReduce_mod s.latch
  · have hv : (canonicalEncode s.latch).limbs.value % (2 ^ 255 - 19) = s.latch.value % (2 ^ 255 - 19) := by
      rw [value_canonicalEncode, Nat.mod_mod, value_weakReduce_mod]
    exact hv

theorem exec_reduce_result {s t : State} (h : exec .reduce s = .next t) :
    t.out = weakReduce s.latch ∧ t.obw = s.obw := by
  cases h; exact ⟨rfl, rfl⟩

theorem exec_encode_result {s t : State} (h : exec .encode s = .next t) :
    t.out.value < 2 ^ 255 - 19 ∧ t.obw.value = t.out.value := by
  obtain ⟨hi, -⟩ | ⟨-, rfl⟩ := exec_cases h
  · cases hi
  · have hlt : (canonicalEncode s.latch).limbs.value < 2 ^ 255 - 19 := by
      rw [value_canonicalEncode]; exact Nat.mod_lt _ (by decide)
    exact ⟨hlt, value_byteWords_canonicalEncode s.latch⟩

theorem exec_inp {i : Instr} {s t : State} (h : exec i s = .next t) : t.inp = s.inp := by
  obtain ⟨-, rfl⟩ | ⟨-, rfl⟩ := exec_cases h <;> rfl

/-! ### STATUS along the way -/

/-- After acceptance STATUS shows BUSY alone (40_command_protocol.md R101). -/
theorem statusWord_acceptCommand {s : State} (i : Instr) (h : s.faultTopbit = false) :
    (s.acceptCommand i).statusWord = 0x1 := by
  simp [State.statusWord, State.busy, h, flagBit]

/-- A command that met no error leaves STATUS showing DONE alone (40_command_protocol.md R106). -/
theorem exec_statusWord {i : Instr} {s t : State} (h : exec i s = .next t) (hcmd : s.errCmd = false)
    (hbusy : s.errBusy = false) (htop : s.faultTopbit = false) : t.statusWord = 0x2 := by
  obtain ⟨hpend, hdone, hcmd', hbusy', htop', -⟩ := exec_frame h
  simp [State.statusWord, State.busy, hpend, hdone, hcmd', hbusy', htop', hcmd, hbusy, htop, flagBit]

/-! ### The two steps -/

theorem takeTurn_of_sched_cons {s : State} {turn : Turn} {rest : List Turn} (h : s.sched = turn :: rest) :
    s.takeTurn = (turn, { s with sched := rest }) := by
  simp only [State.takeTurn, h]

theorem engineTurn_of_pend {s : State} {i : Instr} (h : s.pend = some i) : engineTurn s = exec i s := by
  simp only [engineTurn, h]

/-- A `wr` to a writable register is served and the host goes on. -/
theorem hostTurn_wr {s : State} {r : WindowReg} {v : Word} (h : s.currentStmt = some (.wr r v))
    (hw : r.writable = true) : hostTurn s = .next (s.writeReg v r).advance := by
  simp [hostTurn, h, hostStatement, busTurn, hw]

/-- A `wr` of a command word while idle is the acceptance of the command. -/
theorem hostTurn_wr_command {s : State} {i : Instr} (h : s.currentStmt = some (.wr .cmd (encode i)))
    (hp : s.pend = none) : hostTurn s = .next (s.acceptCommand i).advance := by
  rw [hostTurn_wr h rfl, State.writeReg, State.cmdWrite_encode i hp]

/-- Settles O33: the first step accepts the command with IN in LATCH, the second completes it on LATCH. -/
theorem commandComputesFromIn : Obligations.CommandComputesFromIn := by
  intro s u i rest hturn hstmt hpend htop hsched
  have hu := takeTurn_eq hturn
  have hfirst : step s = .next (u.acceptCommand i).advance :=
    (step_eq_runTurn hturn).trans (hostTurn_wr_command hstmt hpend)
  have hturn₁ := takeTurn_of_sched_cons (s := (u.acceptCommand i).advance) hsched
  obtain ⟨t, hexec⟩ := exec_next i { (u.acceptCommand i).advance with sched := rest }
  have hsecond : step (u.acceptCommand i).advance = .next t :=
    (step_eq_runTurn hturn₁).trans ((engineTurn_of_pend rfl).trans hexec)
  have hin : u.inp = s.inp := by rw [hu]
  have hout : u.out = s.out := by rw [hu]
  have hobw : u.obw = s.obw := by rw [hu]
  refine ⟨_, t, hfirst, statusWord_acceptCommand i htop, hout, hobw, hsecond, exec_statusWord hexec rfl rfl htop,
    (exec_inp hexec).trans hin, ?_, ?_, ?_⟩
  · rw [← hin]; exact exec_value_mod hexec
  · rintro rfl
    rw [← hin, ← hobw]; exact exec_reduce_result hexec
  · rintro rfl
    exact exec_encode_result hexec

end Sys2Proof.Machine
end

section
/-! The command word (30_encoding.md R80 to R83): its two fields, the two legal words, and its byte lanes
(20_memory.md R60). -/

namespace Sys2Proof

open Machine

/-! ### The fields -/

theorem rsvdField_append_opField (v : Word) : rsvdField v ++ opField v = v := by
  rw [rsvdField, opField, BitVec.extractLsb'_append_extractLsb'_eq_extractLsb' (by decide)]
  exact BitVec.extractLsb'_eq_self

theorem toNat_opField (v : Word) : (opField v).toNat = v.toNat % 256 := by
  simp [opField, BitVec.extractLsb'_toNat]

theorem toNat_rsvdField (v : Word) : (rsvdField v).toNat = v.toNat / 256 := by
  have hv := v.isLt
  rw [rsvdField, BitVec.extractLsb'_toNat, Nat.shiftRight_eq_div_pow]
  omega

/-! ### The opcode map -/

/-- A word is legal when it is a command's own word in all 64 bits (30_encoding.md R83). -/
theorem decodeCommand_eq_ok_iff {v : Word} {i : Instr} : decodeCommand v = .ok i ↔ v = encode i := by
  refine ⟨fun h => ?_, fun h => h ▸ decodeCommand_encode i⟩
  rw [← rsvdField_append_opField v]
  unfold decodeCommand at h
  split_ifs at h with h₁ hrsvd h₂ hrsvd <;> cases h
  · rw [h₁, hrsvd]; rfl
  · rw [h₂, hrsvd]; rfl

theorem exists_decodeCommand_eq_ok_iff {v : Word} : (∃ i, decodeCommand v = .ok i) ↔ v = 0x1 ∨ v = 0x2 := by
  constructor
  · rintro ⟨i, hi⟩
    cases i with
    | reduce => exact .inl (decodeCommand_eq_ok_iff.mp hi)
    | encode => exact .inr (decodeCommand_eq_ok_iff.mp hi)
  · rintro (rfl | rfl)
    · exact ⟨_, decodeCommand_encode .reduce⟩
    · exact ⟨_, decodeCommand_encode .encode⟩

theorem exists_decodeCommand_eq_error_iff {v : Word} :
    (∃ e, decodeCommand v = .error e) ↔ v ≠ 0x1 ∧ v ≠ 0x2 := by
  rw [← not_or, ← exists_decodeCommand_eq_ok_iff]
  cases decodeCommand v <;> simp

theorem decodeCommand_of_reservedOpcode {v : Word} (h₁ : opField v ≠ 0x01) (h₂ : opField v ≠ 0x02) :
    decodeCommand v = .error (.reservedOpcode (opField v)) := by
  rw [decodeCommand, if_neg h₁, if_neg h₂]

theorem decodeCommand_of_reservedBits {v : Word} (hop : opField v = 0x01 ∨ opField v = 0x02)
    (hrsvd : rsvdField v ≠ 0) : decodeCommand v = .error .reservedBitsSet := by
  obtain hop | hop := hop
  · rw [decodeCommand, if_pos hop, if_neg hrsvd]
  · rw [decodeCommand, if_neg (by rw [hop]; decide), if_pos hop, if_neg hrsvd]

/-! ### Byte lanes -/

theorem toNat_laneOfWord (v : Word) (i : Nat) : (laneOfWord v i).toNat = v.toNat / 2 ^ (8 * i) % 256 := by
  rw [laneOfWord, BitVec.extractLsb'_toNat, Nat.shiftRight_eq_div_pow]

theorem length_bytesOfWord (v : Word) : (bytesOfWord v).length = 8 := by simp [bytesOfWord]

theorem bytesValue_bytesOfWord (v : Word) : bytesValue (bytesOfWord v) = v.toNat := by
  have hlanes : bytesOfWord v = [laneOfWord v 0, laneOfWord v 1, laneOfWord v 2, laneOfWord v 3, laneOfWord v 4,
      laneOfWord v 5, laneOfWord v 6, laneOfWord v 7] := rfl
  have hv := v.isLt
  simp only [hlanes, bytesValue, toNat_laneOfWord]
  omega

theorem wordOfBytes_bytesOfWord (v : Word) : wordOfBytes (bytesOfWord v) = v :=
  BitVec.eq_of_toNat_eq <|
    (toNat_wordOfBytes (length_bytesOfWord v).le).trans (bytesValue_bytesOfWord v)

/-- Byte strings of one length that hold the same integer are equal. -/
theorem eq_of_bytesValue_eq {as bs : List Byte} (hlen : as.length = bs.length)
    (hval : bytesValue as = bytesValue bs) : as = bs := by
  induction as generalizing bs with
  | nil => exact (List.length_eq_zero_iff.mp hlen.symm).symm
  | cons a as ih =>
    cases bs with
    | nil => cases hlen
    | cons b bs =>
      have ha := a.isLt
      have hb := b.isLt
      simp only [bytesValue] at hval
      have hhead : a = b := BitVec.eq_of_toNat_eq (by omega)
      rw [hhead, ih (Nat.succ.inj hlen) (by omega)]

/-- Eight bytes and a word determine each other. -/
theorem wordOfBytes_eq_iff {bs : List Byte} {v : Word} (hlen : bs.length = 8) :
    wordOfBytes bs = v ↔ bs = bytesOfWord v := by
  refine ⟨fun h => ?_, fun h => h ▸ wordOfBytes_bytesOfWord v⟩
  apply eq_of_bytesValue_eq (hlen.trans (length_bytesOfWord v).symm)
  rw [bytesValue_bytesOfWord, ← h, toNat_wordOfBytes hlen.le]

/-! ### Decoding of byte strings -/

theorem decodeBytes_eq_ok_iff {bs : List Byte} {i : Instr} :
    decodeBytes bs = .ok i ↔ bs.length = 8 ∧ decodeCommand (wordOfBytes bs) = .ok i := by
  unfold decodeBytes
  by_cases hlen : bs.length = 8
  · cases hd : decodeCommand (wordOfBytes bs) <;> simp [hlen]
  · simp [hlen]

theorem Instr.wf_eq_true (i : Instr) : i.wf = true := by cases i <;> rfl

/-- Settles O3: eight bytes and their word determine each other, and the one word that decodes to i is encode i. -/
theorem decodeBytesInvertsEncodeBytes : Obligations.DecodeBytesInvertsEncodeBytes := by
  intro bs i
  rw [decodeBytes_eq_ok_iff, decodeCommand_eq_ok_iff, encodeBytes]
  constructor
  · rintro ⟨hlen, hword⟩
    exact ⟨i.wf_eq_true, (wordOfBytes_eq_iff hlen).mp hword⟩
  · rintro ⟨-, rfl⟩
    exact ⟨length_bytesOfWord _, wordOfBytes_bytesOfWord _⟩

/-- Settles O1: the legal words are the two commands' own, and the all-ones mask changes no word. -/
theorem decodeComparesAllSixtyFourBits : Obligations.DecodeComparesAllSixtyFourBits := by
  intro v
  have hmask : v &&& 0xFFFFFFFFFFFFFFFF = v := BitVec.and_allOnes
  rw [hmask]
  exact ⟨decodeCommand_eq_ok_iff, decodeCommand_eq_ok_iff, exists_decodeCommand_eq_error_iff,
    decodeCommand_eq_ok_iff, decodeCommand_eq_ok_iff⟩

/-- Settles O2: OP and RSVD are the remainder and the quotient of the word by 256, and together they are the word. -/
theorem opcodeMapByFields : Obligations.OpcodeMapByFields := by
  intro v
  have hop₁ : opField v = 0x01 ↔ v.toNat % 256 = 1 := by rw [← BitVec.toNat_inj, toNat_opField]; rfl
  have hop₂ : opField v = 0x02 ↔ v.toNat % 256 = 2 := by rw [← BitVec.toNat_inj, toNat_opField]; rfl
  have hrsvd : rsvdField v = 0 ↔ v.toNat / 256 = 0 := by rw [← BitVec.toNat_inj, toNat_rsvdField]; rfl
  refine ⟨fun h₁ h₀ => ?_, fun h₂ h₀ => ?_, fun h => ?_, fun h h₀ => ?_, exists_decodeCommand_eq_ok_iff⟩
  · have hv : v.toNat = 0x1 := by omega
    exact decodeCommand_eq_ok_iff.mpr (BitVec.eq_of_toNat_eq hv)
  · have hv : v.toNat = 0x2 := by omega
    exact decodeCommand_eq_ok_iff.mpr (BitVec.eq_of_toNat_eq hv)
  · rw [← toNat_opField, BitVec.ofNat_toNat, BitVec.setWidth_eq]
    exact decodeCommand_of_reservedOpcode (by rw [ne_eq, hop₁]; omega) (by rw [ne_eq, hop₂]; omega)
  · exact decodeCommand_of_reservedBits (h.imp hop₁.mpr hop₂.mpr) (mt hrsvd.mp h₀)

/-- Settles O4: the two commands' own words by their round trips, the others by evaluation. -/
theorem tableWordsDecode : Obligations.TableWordsDecode :=
  ⟨Laws.RoundTrip.reduce, Laws.RoundTrip.encode, by decide, by decide, by decide, by decide, by decide⟩

end Sys2Proof
end

section
/-! Host variables (30_encoding.md R87): what a read returns after a write, and lists that read alike. -/

namespace Sys2Proof.Machine

theorem varsWf_cons_iff {k : Nat} {v : Word} {rest : List (Nat × Word)} :
    VarsWf ((k, v) :: rest) ↔ (∀ p ∈ rest, k < p.1) ∧ v ≠ 0 ∧ VarsWf rest := by
  simp only [VarsWf, List.pairwise_cons, List.forall_mem_cons]
  tauto

/-- A variable below every listed one holds 0. -/
theorem varRead_eq_zero_of_lt {vs : List (Nat × Word)} {n : Nat} (h : ∀ p ∈ vs, n < p.1) : varRead vs n = 0 := by
  induction vs with
  | nil => rfl
  | cons a rest ih =>
    obtain ⟨ha, hrest⟩ := List.forall_mem_cons.mp h
    rw [varRead, if_neg ha.ne', ih hrest]

theorem varRead_cons_same (k : Nat) (v : Word) (rest : List (Nat × Word)) : varRead ((k, v) :: rest) k = v :=
  if_pos rfl

theorem varRead_cons_other {k n : Nat} (v : Word) (rest : List (Nat × Word)) (h : n ≠ k) :
    varRead ((k, v) :: rest) n = varRead rest n :=
  if_neg h.symm

theorem varRead_varWrite_same {vs : List (Nat × Word)} (h : VarsWf vs) (n : Nat) (w : Word) :
    varRead (varWrite vs n w) n = w := by
  induction vs with
  | nil =>
    unfold varWrite
    split_ifs with hw
    · exact hw.symm
    · exact varRead_cons_same ..
  | cons a rest ih =>
    obtain ⟨k, v⟩ := a
    obtain ⟨hk, -, hrest⟩ := varsWf_cons_iff.mp h
    unfold varWrite
    split_ifs with hlt hw heq hw
    · rw [varRead_cons_other v rest hlt.ne, hw]
      exact varRead_eq_zero_of_lt fun p hp => hlt.trans (hk p hp)
    · exact varRead_cons_same ..
    · rw [heq, hw]
      exact varRead_eq_zero_of_lt hk
    · exact varRead_cons_same ..
    · rw [varRead_cons_other _ _ heq, ih hrest]

theorem varRead_varWrite_other (vs : List (Nat × Word)) {n m : Nat} (w : Word) (hm : m ≠ n) :
    varRead (varWrite vs n w) m = varRead vs m := by
  induction vs with
  | nil =>
    unfold varWrite
    split_ifs with hw
    · rfl
    · exact varRead_cons_other _ _ hm
  | cons a rest ih =>
    obtain ⟨k, v⟩ := a
    unfold varWrite
    split_ifs with hlt hw heq hw
    · rfl
    · exact varRead_cons_other _ _ hm
    · rw [varRead_cons_other _ _ (heq ▸ hm)]
    · rw [varRead_cons_other _ _ hm, varRead_cons_other _ _ (heq ▸ hm)]
    · rw [varRead, varRead, ih]

/-- The first number of a canonical list is the least one whose value is not 0. -/
theorem le_of_varRead_eq {us vs : List (Nat × Word)} {j k : Nat} {u v : Word} (hvs : VarsWf ((k, v) :: vs))
    (hus : VarsWf ((j, u) :: us)) (h : varRead ((j, u) :: us) k = varRead ((k, v) :: vs) k) : j ≤ k := by
  obtain ⟨hj, -, -⟩ := varsWf_cons_iff.mp hus
  obtain ⟨-, hv, -⟩ := varsWf_cons_iff.mp hvs
  by_contra hlt
  have hzero : varRead ((j, u) :: us) k = 0 :=
    varRead_eq_zero_of_lt (List.forall_mem_cons.mpr ⟨not_le.mp hlt, fun p hp => (not_le.mp hlt).trans (hj p hp)⟩)
  rw [h, varRead_cons_same] at hzero
  exact hv hzero

theorem eq_of_varRead_eq {us vs : List (Nat × Word)} (hus : VarsWf us) (hvs : VarsWf vs)
    (h : ∀ n, varRead us n = varRead vs n) : us = vs := by
  induction vs generalizing us with
  | nil =>
    cases us with
    | nil => rfl
    | cons b us =>
      obtain ⟨-, hu, -⟩ := varsWf_cons_iff.mp hus
      exact absurd ((varRead_cons_same ..).symm.trans (h b.1)) hu
  | cons a vs ih =>
    obtain ⟨k, v⟩ := a
    obtain ⟨hk, hv, hvs'⟩ := varsWf_cons_iff.mp hvs
    cases us with
    | nil => exact absurd ((h k).trans (varRead_cons_same ..)).symm hv
    | cons b us =>
      obtain ⟨j, u⟩ := b
      obtain rfl : j = k := le_antisymm (le_of_varRead_eq hvs hus (h k)) (le_of_varRead_eq hus hvs (h j).symm)
      obtain ⟨hj, -, hus'⟩ := varsWf_cons_iff.mp hus
      have hhead : u = v := by simpa only [varRead_cons_same] using h j
      have htail : us = vs := ih hus' hvs' fun n => by
        by_cases hn : n = j
        · rw [hn, varRead_eq_zero_of_lt hj, varRead_eq_zero_of_lt hk]
        · simpa only [varRead_cons_other _ _ hn] using h n
      rw [hhead, htail]

/-- Settles O52: a write is read back and reaches no other variable, and a canonical list is its reads. -/
theorem hostVariableStore : Obligations.HostVariableStore := fun vs hvs =>
  ⟨fun n w => ⟨varWrite_wf n w hvs, varRead_varWrite_same hvs n w, fun _ hm => varRead_varWrite_other vs w hm⟩,
    fun _ hus h => eq_of_varRead_eq hus hvs h⟩

end Sys2Proof.Machine
end

section
/-! The host's statements (30_encoding.md R87) on a host turn, one lemma per statement or kind of access. -/

namespace Sys2Proof.Machine

open Safety

/-! ### Accesses -/

theorem busTurn_write_addr (s : State) (r : WindowReg) (v : Word) (dst : Option Nat) :
    busTurn (.write r.addr 8 v) dst s =
      if r.writable then .next (s.writeReg v r).advance
      else .fault (.busError .access (Config.base + r.offset) 8) := by
  rw [busTurn, if_pos (r.write_inWindow 8 v), s.serve_write_addr]
  cases r.writable <;> rfl

theorem busTurn_read_addr {s : State} {r : WindowReg} {w : Word} (x : Nat) (h : s.readReg r = some w) :
    busTurn (.read r.addr 8) (some x) s = .next (s.setVar x w).advance := by
  rw [busTurn, if_pos (r.read_inWindow 8), State.serve_read_of_readReg h]
  rfl

theorem busTurn_read_cmd (s : State) (dst : Option Nat) :
    busTurn (.read (WindowReg.addr .cmd) 8) dst s = .fault (.busError .access (Config.base + 0x28) 8) := by
  rw [busTurn, if_pos (WindowReg.read_inWindow .cmd 8), s.serve_read_addr .cmd]
  rfl

/-- A variable takes a value and the host goes on: what `rd` and `mov` do. -/
theorem setVar_advance_frame {u : State} (hv : VarsWf u.hostVars) (x : Nat) (w : Word) :
    EngineSame u (u.setVar x w).advance ∧ (u.setVar x w).advance.var x = w ∧
      (∀ y, y ≠ x → (u.setVar x w).advance.var y = u.var y) ∧ (u.setVar x w).advance.hostPc = u.hostPc + 1 :=
  ⟨⟨rfl, rfl, rfl, rfl, rfl, rfl, rfl, rfl, rfl⟩, varRead_varWrite_same hv x w,
    fun _ hy => varRead_varWrite_other u.hostVars w hy, rfl⟩

/-! ### Branches -/

theorem mem_definedLabels_of_mem_cons {l : Nat} {st : HostStmt} {rest : List HostStmt}
    (h : l ∈ definedLabels (st :: rest)) (hst : st ≠ .label l) : l ∈ definedLabels rest := by
  cases st with
  | label m => exact (List.mem_cons.mp h).resolve_left fun hl => hst (hl ▸ rfl)
  | _ => exact h

/-- A defined label is found at one of its own lines. -/
theorem exists_findLabel_of_mem {l : Nat} {p : List HostStmt} (h : l ∈ definedLabels p) :
    ∃ k, findLabel l p = some (k + 1) ∧ p[k]? = some (.label l) := by
  induction p with
  | nil => cases h
  | cons st rest ih =>
    by_cases hst : st = .label l
    · exact ⟨0, if_pos hst, congrArg some hst⟩
    · obtain ⟨k, hk, hline⟩ := ih (mem_definedLabels_of_mem_cons h hst)
      exact ⟨k + 1, by rw [findLabel, if_neg hst, hk]; rfl, hline⟩

theorem hostStatement_bnz_zero {bus : BusAccess → Option Nat → State → Host.Outcome State Fault Refusal} {s : State}
    {x : Nat} {b : Fin 64} (l : Nat) (h : (s.var x).getLsbD b.val = false) :
    hostStatement bus (.bnz x b l) s = .next s.advance := by
  rw [hostStatement, h]; rfl

theorem hostStatement_bnz_one {bus : BusAccess → Option Nat → State → Host.Outcome State Fault Refusal} {s : State}
    {x : Nat} {b : Fin 64} {l k : Nat} (h : (s.var x).getLsbD b.val = true) (hk : findLabel l s.hostProg = some k) :
    hostStatement bus (.bnz x b l) s = .next (s.hostJump k) := by
  rw [hostStatement, if_pos h, hk]

/-! ### Host turns -/

theorem hostTurn_of_stmt {s : State} {st : HostStmt} (h : s.currentStmt = some st) :
    hostTurn s = hostStatement busTurn st s := by
  simp only [hostTurn, h]

theorem hostTurn_of_halted {s : State} (h : s.hostHalted = true) : hostTurn s = .next s := by
  simp [hostTurn, State.currentStmt, h]

/-- Settles O51: a host turn runs its statement, and each statement is an access, a branch or a local move. -/
theorem hostStatements : Obligations.HostStatements := by
  intro s u hturn hvars
  have hv : VarsWf u.hostVars := by rw [takeTurn_eq hturn]; exact hvars
  have hstep : step s = hostTurn u := step_eq_runTurn hturn
  have hrun {st : HostStmt} (h : u.currentStmt = some st) : step s = hostStatement busTurn st u :=
    hstep.trans (hostTurn_of_stmt h)
  refine ⟨fun r v h => ?wr, fun r x h => ?wrVar, fun r x w h hr => ?rd, fun x h => ?rdCmd, fun l h => hrun h,
    fun x b l h hbit => ?bnzZero, fun x b l h hbit hl => ?bnzOne, fun x y h => ?mov, fun h => hrun h,
    fun h => hstep.trans (hostTurn_of_halted h)⟩
  case wr => exact (hrun h).trans (busTurn_write_addr ..)
  case wrVar => exact (hrun h).trans (busTurn_write_addr ..)
  case rd => exact ⟨_, (hrun h).trans (busTurn_read_addr x hr), setVar_advance_frame hv x w⟩
  case rdCmd => exact (hrun h).trans (busTurn_read_cmd ..)
  case bnzZero => exact (hrun h).trans (hostStatement_bnz_zero l hbit)
  case bnzOne =>
    obtain ⟨k, hk, hline⟩ := exists_findLabel_of_mem hl
    exact ⟨k, hline, (hrun h).trans (hostStatement_bnz_one hbit hk)⟩
  case mov => exact ⟨_, hrun h, setVar_advance_frame hv x (u.var y)⟩

theorem step_of_engine_pend {s u : State} {i : Instr} (hturn : s.takeTurn = (.engine, u)) (hp : u.pend = some i) :
    step s = exec i u :=
  (step_eq_runTurn hturn).trans (engineTurn_of_pend hp)

/-- Settles O26: the word that decodes to i is encode i, its write is the acceptance of i, and the engine's turn is
exec of what is pending. -/
theorem stepRunsDecodedCommand : Obligations.StepRunsDecodedCommand := by
  refine ⟨fun s u v i rest hturn hstmt hpend hdec hsched => ?_, fun _ _ _ => step_of_engine_pend⟩
  obtain rfl := decodeCommand_eq_ok_iff.mp hdec
  have hfirst : step s = .next (u.acceptCommand i).advance :=
    (step_eq_runTurn hturn).trans (hostTurn_wr_command hstmt hpend)
  have hturn₁ := takeTurn_of_sched_cons (s := (u.acceptCommand i).advance) hsched
  have hlatch : u.inp = s.inp := by rw [takeTurn_eq hturn]
  exact ⟨_, hfirst, rfl, hlatch, step_of_engine_pend hturn₁ rfl⟩

end Sys2Proof.Machine
end

section
/-! Completion (40_command_protocol.md R106): what it writes, spelt out, and what it leaves unchanged. -/

namespace Sys2Proof.Machine

open Safety

/-! ### Frame -/

theorem exec_hostSame {i : Instr} {s t : State} (h : exec i s = .next t) : HostSame s t := by
  obtain ⟨-, rfl⟩ | ⟨-, rfl⟩ := exec_cases h <;> simp [HostSame]

theorem exec_latch {i : Instr} {s t : State} (h : exec i s = .next t) : t.latch = s.latch := by
  obtain ⟨-, rfl⟩ | ⟨-, rfl⟩ := exec_cases h <;> rfl

/-- BUSY and DONE are the only STATUS bits a completion changes. -/
theorem exec_statusWord_getLsbD {i : Instr} {s t : State} (h : exec i s = .next t) {b : Nat} (hb : 2 ≤ b) :
    t.statusWord.getLsbD b = s.statusWord.getLsbD b := by
  obtain ⟨-, -, hcmd, hbusy, htop, -⟩ := exec_frame h
  have h₀ : b ≠ 0 := by omega
  have h₁ : b ≠ 1 := by omega
  simp [getLsbD_statusWord, hcmd, hbusy, htop, h₀, h₁]

/-- A byte of the window depends on the one register that holds it. -/
theorem State.windowByte_congr {s t : State} {off : Nat}
    (h : ∀ r : WindowReg, off / 8 * 8 = r.offset → t.readReg r = s.readReg r) :
    t.windowByte off = s.windowByte off := by
  unfold State.windowByte
  cases hr : WindowReg.at? (off / 8 * 8) with
  | none => rfl
  | some r => simp only [h r (WindowReg.at?_eq_some_iff.mp hr)]

/-- Settles O24: of the registers a read can return, a completion writes STATUS, OUT and, for ENCODE, OBW. -/
theorem commandFrame : Obligations.CommandFrame := by
  intro i s t h
  obtain ⟨-, -, hcmd, hbusy, htop, -⟩ := exec_frame h
  have hobw : i = .reduce → t.obw = s.obw := by
    rintro rfl
    obtain ⟨-, hkept⟩ := exec_reduce_result h
    exact hkept
  refine ⟨exec_inp h, exec_latch h, hcmd, hbusy, htop, exec_hostSame h, hobw,
    fun b hb => exec_statusWord_getLsbD h hb,
    fun off hstatus hout hbytes => State.windowByte_congr fun r hr => ?_⟩
  cases r with
  | inLimb k => simp only [State.readReg, exec_inp h]
  | cmd => rfl
  | status => simp only [WindowReg.offset] at hr; omega
  | outLimb k => simp only [WindowReg.offset] at hr; omega
  | outBytes k =>
    obtain hreduce | hbytes := hbytes
    · simp only [State.readReg, hobw hreduce]
    · simp only [WindowReg.offset] at hr; omega

/-! ### The byte words of ENCODE -/

theorem take_succ_drop_eq_getD_cons {bs : List Byte} {j : Nat} (m : Nat) (h : j < bs.length) :
    (bs.drop j).take (m + 1) = bs.getD j 0 :: (bs.drop (j + 1)).take m := by
  rw [List.drop_eq_getElem_cons h, List.take_succ_cons, List.getD_eq_getElem bs 0 h]

theorem wordOfBytes_eight (b₀ b₁ b₂ b₃ b₄ b₅ b₆ b₇ : Byte) :
    wordOfBytes [b₀, b₁, b₂, b₃, b₄, b₅, b₆, b₇] =
      b₀.setWidth 64 ||| b₁.setWidth 64 <<< 8 ||| b₂.setWidth 64 <<< 16 ||| b₃.setWidth 64 <<< 24 |||
        b₄.setWidth 64 <<< 32 ||| b₅.setWidth 64 <<< 40 ||| b₆.setWidth 64 <<< 48 ||| b₇.setWidth 64 <<< 56 := by
  simp only [wordOfBytes, BitVec.shiftLeft_or_distrib, ← BitVec.shiftLeft_add, BitVec.ofNat_eq_ofNat,
    BitVec.zero_shiftLeft, BitVec.or_zero, BitVec.or_assoc, Nat.reduceAdd]

/-- Byte word k is the OR of its eight bytes, each shifted to its lane (40_command_protocol.md R106). -/
theorem byteWord_eq_or {bs : List Byte} {k : Nat} (h : 8 * k + 8 ≤ bs.length) :
    let b (j : Nat) : Word := (bs.getD j 0).setWidth 64
    byteWord bs k = b (8 * k) ||| b (8 * k + 1) <<< 8 ||| b (8 * k + 2) <<< 16 ||| b (8 * k + 3) <<< 24 |||
      b (8 * k + 4) <<< 32 ||| b (8 * k + 5) <<< 40 ||| b (8 * k + 6) <<< 48 ||| b (8 * k + 7) <<< 56 := by
  have hbytes : (bs.drop (8 * k)).take 8 = [bs.getD (8 * k) 0, bs.getD (8 * k + 1) 0, bs.getD (8 * k + 2) 0,
      bs.getD (8 * k + 3) 0, bs.getD (8 * k + 4) 0, bs.getD (8 * k + 5) 0, bs.getD (8 * k + 6) 0,
      bs.getD (8 * k + 7) 0] := by
    iterate 8 rw [take_succ_drop_eq_getD_cons _ (by omega)]
    rfl
  intro b
  rw [byteWord, hbytes, wordOfBytes_eight]

theorem length_canonicalEncode_bytes (l : Limbs) : (canonicalEncode l).bytes.length = 32 := by
  simp [canonicalEncode, unpackBytes]

/-- Settles O25: the engine's turn is `exec` of what is pending, and each byte word of ENCODE is the OR of its bytes. -/
theorem completionStep : Obligations.CompletionStep := by
  intro s u hturn
  refine ⟨fun hp => ?none, fun hp => step_of_engine_pend hturn hp, fun hp => ?encode⟩
  case none =>
    obtain ⟨-, hidle⟩ | ⟨i, hi, -⟩ := engineTurn_cases u
    · exact (step_eq_runTurn hturn).trans hidle
    · cases hp.symm.trans hi
  case encode =>
    have hflag : (u.faultTopbit || (canonicalEncode u.latch).top) =
        if (canonicalEncode u.latch).top = true then true else u.faultTopbit := by
      cases (canonicalEncode u.latch).top <;> simp
    intro e b w
    have hword : ∀ k < 4, byteWord e.bytes k = w k := fun k hk =>
      byteWord_eq_or (by rw [length_canonicalEncode_bytes]; omega)
    have hwords : byteWords e.bytes = ⟨w 0, w 1, w 2, w 3⟩ := by
      rw [byteWords, hword 0 (by decide), hword 1 (by decide), hword 2 (by decide), hword 3 (by decide)]
    rw [step_of_engine_pend hturn hp, ← hflag, ← hwords]
    rfl

end Sys2Proof.Machine
end

section
/-! The command protocol (40_command_protocol.md R100 to R107): what a write of CMD and of IN does on a host turn, what
the host reads while a command is pending, and completion after host turns. -/

namespace Sys2Proof.Machine

open Safety

/-! ### Writes of CMD -/

theorem State.cmdWrite_of_illegal {s : State} {v : Word} {e : IllegalCommand} (hp : s.pend = none)
    (hd : decodeCommand v = .error e) : s.cmdWrite v = s.rejectCommand := by
  simp only [State.cmdWrite, hp, hd]

/-- The four cases of a CMD write by the word itself (40_command_protocol.md R100). -/
theorem State.cmdWrite_eq_ite (s : State) (v : Word) :
    s.cmdWrite v =
      if s.pend ≠ none then s.raiseErrBusy
      else if v = 1 then s.acceptCommand .reduce
      else if v = 2 then s.acceptCommand .encode
      else s.rejectCommand := by
  split_ifs with hp h₁ h₂
  · obtain ⟨i, hi⟩ := Option.ne_none_iff_exists'.mp hp
    exact State.cmdWrite_of_pend v hi
  · rw [h₁]; exact State.cmdWrite_encode .reduce (not_not.mp hp)
  · rw [h₂]; exact State.cmdWrite_encode .encode (not_not.mp hp)
  · obtain ⟨e, he⟩ := exists_decodeCommand_eq_error_iff.mpr ⟨h₁, h₂⟩
    exact State.cmdWrite_of_illegal (not_not.mp hp) he

/-- Settles O47: IN[k] and CMD are writable, and a CMD write is decided by PEND and then by the word. -/
theorem writeChangesRegister : Obligations.WriteChangesRegister := by
  intro s v
  refine ⟨fun k => ⟨s.setIn k v, s.serve_write_inLimb k v, Limbs.get_set_same .., fun j hj => ?_, rfl⟩, ?_⟩
  · exact Limbs.get_set_other _ v hj
  · have hserve : s.serve (.write (Config.base + 0x28) 8 v) = (.ack, s.cmdWrite v) := s.serve_write_addr .cmd v
    rw [hserve, State.cmdWrite_eq_ite]
    rfl

/-! ### Steps of the host -/

/-- A host turn at a `wr` of a writable register is the write, after which the host goes on. -/
theorem step_of_host_wr {s u : State} {r : WindowReg} {v : Word} (hturn : s.takeTurn = (.host, u))
    (hstmt : u.currentStmt = some (.wr r v)) (hw : r.writable = true) :
    step s = .next (u.writeReg v r).advance :=
  (step_eq_runTurn hturn).trans (hostTurn_wr hstmt hw)

/-- The state that takes a turn is the one before it but for the schedule. -/
theorem exists_sched_of_takeTurn {s u : State} {turn : Turn} (h : s.takeTurn = (turn, u)) :
    ∃ rest, u = { s with sched := rest } :=
  ⟨u.sched, takeTurn_eq h⟩

/-- OUT is a function of LATCH (40_command_protocol.md R106). -/
theorem exec_out {i : Instr} {s t : State} {l : Limbs} (h : exec i s = .next t) (hlatch : s.latch = l) :
    (i = .reduce → t.out = weakReduce l) ∧ (i = .encode → t.out = (canonicalEncode l).limbs) := by
  subst hlatch
  constructor <;> rintro rfl <;> cases h <;> rfl

/-- Settles O27: the write of a command's word is its acceptance, and a completion reads LATCH, not IN. -/
theorem commandAccepted : Obligations.CommandAccepted := by
  intro s u v i hturn hstmt hpend hdec
  obtain rfl := decodeCommand_eq_ok_iff.mp hdec
  have hstep : step s = .next (u.acceptCommand i).advance :=
    (step_eq_runTurn hturn).trans (hostTurn_wr_command hstmt hpend)
  obtain ⟨rest, rfl⟩ := exists_sched_of_takeTurn hturn
  refine ⟨_, hstep, rfl, rfl, ?_, rfl, rfl, rfl, rfl, rfl, rfl, rfl, rfl, rfl, statusWord_acceptCommand i, fun x => ?_⟩
  · obtain ⟨hbit₀, -⟩ := statusFields (State.acceptCommand { s with sched := rest } i).advance
    exact hbit₀.trans (by simp)
  · obtain ⟨r, hexec⟩ := exec_next i { (State.acceptCommand { s with sched := rest } i).advance with inp := x }
    exact ⟨r, hexec, exec_out hexec rfl⟩

/-- After an illegal word STATUS shows ERR_CMD alone (40_command_protocol.md R102). -/
theorem statusWord_rejectCommand {s : State} (hp : s.pend = none) (htop : s.faultTopbit = false) :
    s.rejectCommand.statusWord = 0x4 := by
  simp [State.statusWord, State.busy, hp, htop, flagBit]

/-- Settles O28: the write of an illegal word while idle is its rejection. -/
theorem illegalCommandWhileIdle : Obligations.IllegalCommandWhileIdle := by
  intro s u v e hturn hstmt hpend hdec
  have hstep : step s = .next u.rejectCommand.advance := by
    rw [step_of_host_wr hturn hstmt rfl, State.writeReg, State.cmdWrite_of_illegal hpend hdec]
  obtain ⟨rest, rfl⟩ := exists_sched_of_takeTurn hturn
  exact ⟨_, hstep, hpend, rfl, rfl, rfl, rfl, rfl, rfl, rfl, rfl, statusWord_rejectCommand hpend⟩

/-- A CMD write while busy adds ERR_BUSY to BUSY (40_command_protocol.md R103). -/
theorem statusWord_raiseErrBusy {s : State} {i : Instr} (hp : s.pend = some i) (hdone : s.done = false)
    (hcmd : s.errCmd = false) (htop : s.faultTopbit = false) : s.raiseErrBusy.statusWord = 0x9 := by
  simp [State.statusWord, State.busy, flagBit, hp, hdone, hcmd, htop]

/-- ERR_BUSY outlives the completion (40_command_protocol.md R103). -/
theorem exec_statusWord_of_errBusy {i : Instr} {s t : State} (h : exec i s = .next t) (hcmd : s.errCmd = false)
    (hbusy : s.errBusy = true) (htop : s.faultTopbit = false) : t.statusWord = 0xA := by
  obtain ⟨hpend, hdone, hcmd', hbusy', htop', -⟩ := exec_frame h
  simp [State.statusWord, State.busy, flagBit, hpend, hdone, hcmd', hbusy', htop', hcmd, hbusy, htop]

/-- Settles O29: while a command is pending a CMD write is not decoded, and ERR_BUSY outlives the completion. -/
theorem commandWhileBusyDropped : Obligations.CommandWhileBusyDropped := by
  intro s u v i hturn hstmt hpend
  have hstep : step s = .next u.raiseErrBusy.advance := by
    rw [step_of_host_wr hturn hstmt rfl, State.writeReg, State.cmdWrite_of_pend v hpend]
  obtain ⟨rest, rfl⟩ := exists_sched_of_takeTurn hturn
  obtain ⟨r, hexec⟩ := exec_next i (State.raiseErrBusy { s with sched := rest }).advance
  exact ⟨_, hstep, ⟨rfl, rfl, rfl, rfl, rfl, rfl, rfl, rfl, rfl⟩, rfl, fun hdone hcmd htop =>
    ⟨statusWord_raiseErrBusy hpend hdone hcmd htop, r, hexec, exec_statusWord_of_errBusy hexec hcmd rfl htop⟩⟩

/-! ### The pending command's result -/

/-- A completion's results depend on LATCH and on the old OBW and FAULT_TOPBIT alone. -/
theorem exec_result_congr {i : Instr} {s s' t t' : State} (h : exec i s = .next t) (h' : exec i s' = .next t')
    (hlatch : s'.latch = s.latch) (hobw : s'.obw = s.obw) (htop : s'.faultTopbit = s.faultTopbit) :
    t'.out = t.out ∧ t'.obw = t.obw ∧ t'.faultTopbit = t.faultTopbit := by
  cases i with
  | reduce =>
    cases h; cases h'
    exact ⟨congrArg weakReduce hlatch, hobw, htop⟩
  | encode =>
    cases h; cases h'
    simp [hlatch, htop]

/-- Settles O30: an IN write leaves LATCH, from which the pending command computes. -/
theorem inWriteWhileBusy : Obligations.InWriteWhileBusy := by
  intro s u k v i hturn hstmt _
  have hstep : step s = .next (u.setIn k v).advance := step_of_host_wr hturn hstmt rfl
  obtain ⟨rest, rfl⟩ := exists_sched_of_takeTurn hturn
  obtain ⟨r, hr⟩ := exec_next i s
  obtain ⟨r', hr'⟩ := exec_next i (State.setIn { s with sched := rest } k v).advance
  exact ⟨_, hstep, Limbs.get_set_same .., fun j hj => Limbs.get_set_other _ v hj,
    ⟨rfl, rfl, rfl, rfl, rfl, rfl, rfl, rfl, rfl⟩, r, r', hr, hr', exec_result_congr hr hr' rfl rfl rfl⟩

/-! ### Reads while a command is pending -/

theorem State.readWindow_outLimb (s : State) (k : Fin 5) :
    s.readWindow (0x40 + 8 * k.val) 8 = .data (s.out.get k) :=
  State.readWindow_offset (r := .outLimb k) rfl

theorem State.readWindow_outBytes (s : State) (k : Fin 4) :
    s.readWindow (0x80 + 8 * k.val) 8 = .data (s.obw.get k) :=
  State.readWindow_offset (r := .outBytes k) rfl

/-- Settles O31: the invariant keeps DONE clear while BUSY is set, and a host turn writes neither OUT nor OBW. -/
theorem statusReadsBusyNotDone : Obligations.StatusReadsBusyNotDone := by
  intro s i hinv hpend
  obtain ⟨⟨hbusy, -⟩, -⟩ := hinv
  obtain ⟨hdone, -⟩ := hbusy (by simp [State.busy, hpend])
  obtain ⟨hbit₀, hbit₁, -⟩ := statusFields s
  refine ⟨fun _ _ => State.readWindow_offset, ⟨s.statusWord, State.readWindow_offset (r := .status) rfl,
    hbit₀.trans ?_, hbit₁.trans hdone⟩, fun t u hturn hstep => ?_⟩
  · simp [hpend]
  · obtain ⟨hout, hobw, -⟩ := hostTurnFrame s u t hturn hstep
    simp only [State.readWindow_outLimb, State.readWindow_outBytes, hout, hobw, implies_true, and_self]

/-! ### Completion after host turns -/

theorem takeTurn_of_sched_nil {s : State} {i : Instr} (hsched : s.sched = []) (hpend : s.pend = some i) :
    s.takeTurn = (.engine, s) := by
  simp only [State.takeTurn, hsched, defaultTurn, hpend]

/-- Settles O34, by induction on the host turns: each leaves the command pending with its result, and with the schedule
used up the engine completes it. -/
theorem hostTurnsCannotStopCompletion : Obligations.HostTurnsCannotStopCompletion := by
  intro n
  induction n with
  | zero =>
    intro s t r i hsched hpend hexec hrun
    obtain ⟨s', hstep, hrest⟩ := run_succ hrun
    cases hrest
    have hturn := takeTurn_of_sched_nil hsched hpend
    cases hexec.symm.trans ((step_of_engine_pend hturn hpend).symm.trans hstep)
    obtain ⟨hnone, hdone, -⟩ := exec_frame hexec
    obtain ⟨-, -, -, -, hsched', -⟩ := exec_hostSame hexec
    exact ⟨hnone, hdone, rfl, rfl, rfl, hsched'.trans hsched⟩
  | succ n ih =>
    intro s t r i hsched hpend hexec hrun
    obtain ⟨s', hstep, hrest⟩ := run_succ hrun
    have hturn := takeTurn_of_sched_cons hsched
    obtain ⟨-, hobw, htop, -, hsched', -, hpending, -⟩ := hostTurnFrame s _ s' hturn hstep
    obtain ⟨hpend', hlatch, -⟩ := hpending i hpend
    obtain ⟨r', hexec'⟩ := exec_next i s'
    obtain ⟨hout, hobw', htop'⟩ := exec_result_congr hexec hexec' hlatch hobw htop
    rw [← hout, ← hobw', ← htop']
    exact ih s' t r' i hsched' hpend' hexec' hrest

end Sys2Proof.Machine
end

section
/-! The Limb Reducer (41_limb_reducer.md): one parallel pass over the lanes, its bounds, its fixed points, and the REDUCE
command. -/

namespace Sys2Proof.Machine

open Safety

/-! ### Lanes -/

/-- Output lane i reads input lanes i and i - 1 alone (41_limb_reducer.md R130). -/
theorem get_weakReduce (l : Limbs) (i : Fin 5) :
    (weakReduce l).get i = low51 (l.get i) + (if i = 0 then Config.fold else 1) * carryOf (l.get (i - 1)) := by
  fin_cases i
  · rfl
  all_goals exact congrArg (low51 _ + ·) (BitVec.one_mul _).symm

/-- Settles O10: two arrays that agree on lanes i and i - 1 have the same output lane i. -/
theorem reduceLanesAreParallel : Obligations.ReduceLanesAreParallel := by
  refine ⟨by decide, fun l k i hlane hbelow => ?_⟩
  rw [get_weakReduce, get_weakReduce, hlane, hbelow]

/-! ### Bounds -/

/-- The carry bound of 41_limb_reducer.md R124. -/
theorem carry_le (x : Word) : x.toNat / 2 ^ 51 ≤ (2 ^ 64 - 1) / 2 ^ 51 :=
  Nat.div_le_div_right (Nat.le_sub_one_of_lt x.isLt)

theorem LimbsReduced.get_le_of_ne_zero {h : Limbs} (hh : LimbsReduced h) {i : Fin 5} (hi : i ≠ 0) :
    (h.get i).toNat ≤ 2251799813693438 := by
  obtain ⟨-, h1, h2, h3, h4⟩ := hh
  match i, hi with
  | 1, _ => exact h1
  | 2, _ => exact h2
  | 3, _ => exact h3
  | 4, _ => exact h4

theorem LimbsReduced.get_le {h : Limbs} (hh : LimbsReduced h) (i : Fin 5) : (h.get i).toNat ≤ 2251799813840876 := by
  by_cases hi : i = 0
  · obtain ⟨h0, -⟩ := hh
    rw [hi]
    exact h0
  · exact (hh.get_le_of_ne_zero hi).trans (by decide)

theorem value_le_of_reduced {h : Limbs} (hh : LimbsReduced h) :
    h.value ≤ 0x8000000001fff0000000003ffe0000000007ffc000000000fff8000000025fec := by
  obtain ⟨h0, h1, h2, h3, h4⟩ := hh
  unfold Limbs.value
  omega

/-- The input that reaches every bound of `LimbsReduced` at once (41_limb_reducer.md R125). -/
theorem weakReduce_allOnes :
    weakReduce ⟨0xFFFFFFFFFFFFFFFF, 0xFFFFFFFFFFFFFFFF, 0xFFFFFFFFFFFFFFFF, 0xFFFFFFFFFFFFFFFF,
      0xFFFFFFFFFFFFFFFF⟩ =
      ⟨2251799813840876, 2251799813693438, 2251799813693438, 2251799813693438, 2251799813693438⟩ := by decide

/-- Settles O5: with every carry below 2^13, no sum of the pass leaves 64 bits. -/
theorem reduceIsExactCarryPass : Obligations.ReduceIsExactCarryPass := by
  intro l c m
  obtain ⟨h0, h1, h2, h3, h4⟩ := toNat_weakReduce l
  have htop : 19 * c l.l4 ≤ 155629 := (Nat.mul_le_mul_left 19 (carry_le l.l4)).trans (by decide)
  exact ⟨carry_le, by decide, htop, h0, h1, h2, h3, h4, (weakReduce_reduced l).get_le, by decide⟩

/-- Settles O6: every output is within `LimbsReduced`, and the all-ones input is at its bounds. -/
theorem reduceOutputBounds : Obligations.ReduceOutputBounds := by
  refine ⟨fun l => ?_, by decide, by decide, by decide, by decide, weakReduce_allOnes⟩
  have hl := weakReduce_reduced l
  exact ⟨hl.get_le 0, fun i hi => hl.get_le_of_ne_zero hi⟩

/-! ### Fixed points -/

theorem carryOf_eq_zero_of_lt {x : Word} (h : x.toNat < 2 ^ 51) : carryOf x = 0 := by
  apply BitVec.eq_of_toNat_eq
  rw [toNat_carryOf, Nat.div_eq_of_lt h]
  rfl

theorem low51_eq_self_of_lt {x : Word} (h : x.toNat < 2 ^ 51) : low51 x = x := by
  apply BitVec.eq_of_toNat_eq
  rw [toNat_low51, Nat.mod_eq_of_lt h]

theorem get_lt_of_below51 {l : Limbs} (h : LimbsBelow51 l) (i : Fin 5) : (l.get i).toNat < 2 ^ 51 := by
  obtain ⟨h0, h1, h2, h3, h4⟩ := h
  fin_cases i
  exacts [h0, h1, h2, h3, h4]

/-- With no carry to pass on, every lane keeps its low 51 bits, and they are all of it (41_limb_reducer.md R129). -/
theorem weakReduce_eq_self_of_below51 {l : Limbs} (h : LimbsBelow51 l) : weakReduce l = l := by
  obtain ⟨h0, h1, h2, h3, h4⟩ := h
  simp only [weakReduce, low51_eq_self_of_lt, carryOf_eq_zero_of_lt, h0, h1, h2, h3, h4, mul_zero, add_zero]

/-- Settles O9: arrays below 2^51 have no carries, and the output of the all-ones array still has some. -/
theorem reduceFixesArraysBelow51 : Obligations.ReduceFixesArraysBelow51 :=
  ⟨fun _ h => ⟨fun i => carryOf_eq_zero_of_lt (get_lt_of_below51 h i), weakReduce_eq_self_of_below51 h⟩,
    weakReduce_allOnes, by decide⟩

/-! ### Values -/

/-- Settles O7: what leaves limb 4 has weight 2^255 and comes back 19 times, so c4 times p is lost. -/
theorem reduceSubtractsMultipleOfPrime : Obligations.ReduceSubtractsMultipleOfPrime :=
  fun l => ⟨(value_weakReduce l).symm, value_weakReduce_mod l⟩

/-- Settles O8: the value is largest where every limb is at its bound, and p itself is a fixed point. -/
theorem reduceValueBelowTwicePrime : Obligations.ReduceValueBelowTwicePrime :=
  ⟨fun l => value_le_of_reduced (weakReduce_reduced l), by decide, by decide, by decide, by decide,
    weakReduce_eq_self_of_below51 (by decide)⟩

/-! ### The command -/

/-- Settles O22: OUT is the pass over LATCH, with the limbs and the value of that pass. -/
theorem reduceCommandCompletes : Obligations.ReduceCommandCompletes := by
  intro s
  obtain ⟨t, hexec⟩ := exec_next .reduce s
  obtain ⟨hout, hobw⟩ := exec_reduce_result hexec
  obtain ⟨hpend, hdone, -⟩ := exec_frame hexec
  obtain ⟨h0, h1, h2, h3, h4⟩ := toNat_weakReduce s.latch
  have hvalue := value_weakReduce s.latch
  rw [← hout] at h0 h1 h2 h3 h4 hvalue
  exact ⟨t, hexec, h0, h1, h2, h3, h4, hvalue, hobw, hpend, hdone⟩

end Sys2Proof.Machine
end

section
/-! The Canonical Encoder (42_canonical_encoder.md R142 to R154, R161): the quotient bit, the subtraction of p, and the
residue it leaves. -/

namespace Sys2Proof.Machine

open Safety

/-! ### The quotient bit -/

/-- h is below 2p, so its quotient by p is 0 or 1, and the quotient bit is that quotient. -/
theorem quotientBit_cases {h : Limbs} (hh : LimbsReduced h) :
    (quotientBit h).toNat = 0 ∧ h.value < 2 ^ 255 - 19 ∨ (quotientBit h).toNat = 1 ∧ 2 ^ 255 - 19 ≤ h.value := by
  have hlt := value_lt_of_reduced hh
  rw [toNat_quotientBit hh]
  omega

theorem toNat_quotientBit_le_one {h : Limbs} (hh : LimbsReduced h) : (quotientBit h).toNat ≤ 1 := by
  obtain ⟨hq, -⟩ | ⟨hq, -⟩ := quotientBit_cases hh <;> omega

theorem toNat_quotientBit_eq_one_iff {h : Limbs} (hh : LimbsReduced h) :
    (quotientBit h).toNat = 1 ↔ 2 ^ 255 - 19 ≤ h.value := by
  obtain ⟨hq, hv⟩ | ⟨hq, hv⟩ := quotientBit_cases hh
  · exact iff_of_false (by rw [hq]; decide) hv.not_ge
  · exact iff_of_true hq hv

theorem toNat_quotientBit_eq_ripple {h : Limbs} (hh : LimbsReduced h) :
    (quotientBit h).toNat = (h.l4.toNat + (h.l3.toNat + (h.l2.toNat + (h.l1.toNat +
      (h.l0.toNat + 19) / 2 ^ 51) / 2 ^ 51) / 2 ^ 51) / 2 ^ 51) / 2 ^ 51 := by
  obtain ⟨t0, t1, t2, t3, t4⟩ := toNat_rippleSums hh (q := 1) (Nat.le_refl 1)
  rw [quotientBit_eq_discardedCarry, discardedCarry, toNat_carryOf, t4, t3, t2, t1, t0]
  rfl

/-- The ripple from 19 splits value(h) + 19 at bit 255. -/
theorem exists_value_add_nineteen_eq {h : Limbs} (hh : LimbsReduced h) :
    ∃ s : Limbs, LimbsBelow51 s ∧ s.value < 2 ^ 255 ∧ h.value + 19 = s.value + (quotientBit h).toNat * 2 ^ 255 := by
  have hbelow : LimbsBelow51 (subtractPrime h 1) := masked_below51 _
  refine ⟨subtractPrime h 1, hbelow, value_lt_of_below51 hbelow, ?_⟩
  rw [quotientBit_eq_discardedCarry, Nat.mul_comm]
  exact (value_subtractPrime_add_discardedCarry hh (q := 1) (Nat.le_refl 1)).symm

/-- A limb within its bound passes on at most 1, whether 19 or a carry comes in. -/
theorem carry_le_one {x c : Nat} (hx : x ≤ 2251799813840876) (hc : c ≤ 19) : (x + c) / 2 ^ 51 ≤ 1 := by omega

/-- Settles O11: every carry of the ripple is at most 1, it splits value(h) + 19 at bit 255, and h is below 2p. -/
theorem quotientBitDetectsPrime : Obligations.QuotientBitDetectsPrime := by
  intro l h q c0 c1 c2 c3 c4
  have hh : LimbsReduced h := weakReduce_reduced l
  have hbound : h.value + 19 < 2 ^ 255 + 2 ^ 217 + 19 :=
    Nat.add_lt_add_right ((value_le_of_reduced hh).trans_lt (by decide)) 19
  have hlimb := hh.get_le
  have hc0 : c0 ≤ 1 := carry_le_one (hlimb 0) (by decide)
  have hc1 : c1 ≤ 1 := carry_le_one (hlimb 1) (hc0.trans (by decide))
  have hc2 : c2 ≤ 1 := carry_le_one (hlimb 2) (hc1.trans (by decide))
  have hc3 : c3 ≤ 1 := carry_le_one (hlimb 3) (hc2.trans (by decide))
  have hc4 : c4 ≤ 1 := carry_le_one (hlimb 4) (hc3.trans (by decide))
  have hsum : ∀ i, ∀ c ≤ 1, (h.get i).toNat + c ≤ 2251799813840876 + 19 := fun i c hc =>
    Nat.add_le_add (hlimb i) (hc.trans (by decide))
  exact ⟨toNat_quotientBit_eq_ripple hh, toNat_quotientBit hh, exists_value_add_nineteen_eq hh,
    toNat_quotientBit_eq_one_iff hh, Nat.le_one_iff_eq_zero_or_eq_one.mp (toNat_quotientBit_le_one hh), hbound,
    by decide, hc0, hc1, hc2, hc3, hc4, Nat.add_le_add_right (hlimb 0) 19, hsum 1 c0 hc0, hsum 2 c1 hc1,
    hsum 3 c2 hc2, hsum 4 c3 hc3, by decide⟩

/-! ### The sums of step 3 -/

theorem toNat_rippleSums_le {h : Limbs} {q : Word} (hh : LimbsReduced h) (hq : q.toNat ≤ 1) :
    let t := rippleSums h q
    t.l0.toNat ≤ 2251799813840876 + 19 ∧ t.l1.toNat ≤ 2251799813693438 + 1 ∧ t.l2.toNat ≤ 2251799813693438 + 1 ∧
    t.l3.toNat ≤ 2251799813693438 + 1 ∧ t.l4.toNat ≤ 2251799813693438 + 1 := by
  obtain ⟨t0, t1, t2, t3, t4⟩ := toNat_rippleSums hh hq
  obtain ⟨h0, h1, h2, h3, h4⟩ := hh
  refine ⟨?_, ?_, ?_, ?_, ?_⟩ <;> omega

/-- Settles O14: with q at most 1 no sum of the ripple leaves 52 bits. -/
theorem rippleSumsAreExact : Obligations.RippleSumsAreExact := by
  intro l h q t
  have hh : LimbsReduced h := weakReduce_reduced l
  have hq : q.toNat ≤ 1 := toNat_quotientBit_le_one hh
  obtain ⟨t0, t1, t2, t3, t4⟩ := toNat_rippleSums hh hq
  obtain ⟨b0, b1, b2, b3, b4⟩ := toNat_rippleSums_le hh hq
  exact ⟨t0, b0, t1, b1, t2, b2, t3, b3, t4, b4, by decide⟩

theorem discardedCarry_quotientBit {h : Limbs} (hh : LimbsReduced h) :
    discardedCarry h (quotientBit h) = quotientBit h := by
  have hlt := value_lt_of_reduced hh
  apply BitVec.eq_of_toNat_eq
  rw [toNat_discardedCarry hh (toNat_quotientBit_le_one hh)]
  obtain ⟨hq, hv⟩ | ⟨hq, hv⟩ := quotientBit_cases hh <;> rw [hq] <;> omega

/-- Before the last mask the sums, their carries taken off, hold h + 19q (42_canonical_encoder.md R147). -/
theorem value_rippleSums {h : Limbs} {q : Word} (hh : LimbsReduced h) (hq : q.toNat ≤ 1) :
    let t := rippleSums h q
    t.l0.toNat % 2 ^ 51 + t.l1.toNat % 2 ^ 51 * 2 ^ 51 + t.l2.toNat % 2 ^ 51 * 2 ^ 102 +
      t.l3.toNat % 2 ^ 51 * 2 ^ 153 + t.l4.toNat * 2 ^ 204 = h.value + 19 * q.toNat := by
  obtain ⟨t0, t1, t2, t3, t4⟩ := toNat_rippleSums hh hq
  simp only [Limbs.value]
  omega

/-- Settles O12: the discarded carry is floor((value(h) + 19q) / 2^255), which is q for h below 2p. -/
theorem discardedCarryIsQuotientBit : Obligations.DiscardedCarryIsQuotientBit := by
  intro l h q t
  have hh : LimbsReduced h := weakReduce_reduced l
  have hlt : h.value < 2 * (2 ^ 255 - 19) := value_lt_of_reduced hh
  refine ⟨discardedCarry_quotientBit hh, value_rippleSums hh (toNat_quotientBit_le_one hh), fun hq => ?_, fun hq => ?_⟩
  · obtain ⟨h0, -⟩ | ⟨-, hv⟩ := quotientBit_cases hh
    · exact absurd (h0.symm.trans (congrArg BitVec.toNat hq)) (by decide)
    · omega
  · obtain ⟨-, hv⟩ | ⟨h1, -⟩ := quotientBit_cases hh
    · exact ⟨hv, by decide⟩
    · exact absurd (h1.symm.trans (congrArg BitVec.toNat hq)) (by decide)

/-! ### The subtraction of p -/

/-- Below 2^51 the limbs are the digits of their value in base 2^51. -/
theorem value_div_mod_eq_get {t : Limbs} (h : LimbsBelow51 t) (k : Fin 5) :
    t.value / 2 ^ (51 * k.val) % 2 ^ 51 = (t.get k).toNat := by
  obtain ⟨h0, h1, h2, h3, h4⟩ := h
  unfold Limbs.value
  fin_cases k <;> simp only [Limbs.get] <;> omega

theorem eq_of_get_eq {x t : Limbs} (h : ∀ k, x.get k = t.get k) : x = t := by
  obtain ⟨x0, x1, x2, x3, x4⟩ := x
  obtain ⟨t0, t1, t2, t3, t4⟩ := t
  exact (Limbs.mk.injEq ..).mpr ⟨h 0, h 1, h 2, h 3, h 4⟩

theorem eq_of_value_eq {x t : Limbs} (hx : LimbsBelow51 x) (ht : LimbsBelow51 t) (h : x.value = t.value) : x = t :=
  eq_of_get_eq fun k => BitVec.eq_of_toNat_eq <| by rw [← value_div_mod_eq_get hx, h, value_div_mod_eq_get ht]

theorem value_subtractPrime_eq_mod {h : Limbs} {q : Word} (hh : LimbsReduced h) (hq : q.toNat ≤ 1) :
    (subtractPrime h q).value = (h.value + 19 * q.toNat) % 2 ^ 255 := by
  have hlt : (subtractPrime h q).value < 2 ^ 255 := value_lt_of_below51 (masked_below51 _)
  rw [← value_subtractPrime_add_discardedCarry hh hq, Nat.add_mul_mod_self_left, Nat.mod_eq_of_lt hlt]

theorem value_subtractPrime_quotientBit_add {h : Limbs} (hh : LimbsReduced h) :
    (subtractPrime h (quotientBit h)).value + (quotientBit h).toNat * (2 ^ 255 - 19) = h.value := by
  have hlt := value_lt_of_reduced hh
  rw [value_subtractPrime_quotientBit hh]
  obtain ⟨hq, hv⟩ | ⟨hq, hv⟩ := quotientBit_cases hh <;> rw [hq] <;> omega

/-- Settles O13: step 3 leaves the remainder modulo p, and limbs below 2^51 are the digits of their value. -/
theorem subtractPrimeGivesRemainder : Obligations.SubtractPrimeGivesRemainder := by
  intro l h q t
  have hh : LimbsReduced h := weakReduce_reduced l
  have hbelow : LimbsBelow51 t := masked_below51 _
  have hmod : t.value = (h.value + 19 * q.toNat) % 2 ^ 255 :=
    value_subtractPrime_eq_mod hh (toNat_quotientBit_le_one hh)
  have hlt : t.value < 2 ^ 255 - 19 :=
    (value_subtractPrime_quotientBit hh).trans_lt (Nat.mod_lt _ (by decide))
  exact ⟨hbelow, value_subtractPrime_quotientBit_add hh, hlt, hmod,
    fun x hx hxv => eq_of_value_eq hx hbelow (hxv.trans hmod.symm)⟩

/-! ### The least residue -/

theorem value_canonicalEncode_limbs (l : Limbs) : (canonicalEncode l).limbs.value = l.value % (2 ^ 255 - 19) := by
  rw [value_canonicalEncode, value_weakReduce_mod]

theorem value_canonicalEncode_limbs_lt (l : Limbs) : (canonicalEncode l).limbs.value < 2 ^ 255 - 19 := by
  rw [value_canonicalEncode]
  exact Nat.mod_lt _ (by decide)

theorem bytesValue_unpackBytes (n : BitVec 256) : bytesValue (unpackBytes n) = n.toNat := by
  rw [unpackBytes, List.range_eq_range', bytesValue_map_range', Nat.mul_zero, Nat.pow_zero, Nat.div_one]
  exact Nat.mod_eq_of_lt n.isLt

theorem bytesValue_canonicalEncode (l : Limbs) :
    bytesValue (canonicalEncode l).bytes = l.value % (2 ^ 255 - 19) :=
  calc bytesValue (canonicalEncode l).bytes = (packLimbs (canonicalEncode l).limbs).toNat := bytesValue_unpackBytes _
    _ = (canonicalEncode l).limbs.value := toNat_packLimbs (canonicalEncode_below51 l)
    _ = l.value % (2 ^ 255 - 19) := value_canonicalEncode_limbs l

/-- Settles O15: the canonical limbs hold the residue, and packing and unpacking keep it. -/
theorem encodeIsLeastResidue : Obligations.EncodeIsLeastResidue := fun l =>
  ⟨value_canonicalEncode_limbs l, length_canonicalEncode_bytes l, bytesValue_canonicalEncode l,
    (bytesValue_canonicalEncode l).trans_lt (Nat.mod_lt _ (by decide))⟩

/-- Steps 4 and 5 read nothing but the limbs. -/
theorem canonicalEncode_eq_of_limbs_eq {l k : Limbs} (h : (canonicalEncode l).limbs = (canonicalEncode k).limbs) :
    canonicalEncode l = canonicalEncode k :=
  congrArg (fun t => Encoding.mk t (unpackBytes (packLimbs t)) (topBit (unpackBytes (packLimbs t)))) h

theorem canonicalEncode_congr {l k : Limbs} (h : l.value % (2 ^ 255 - 19) = k.value % (2 ^ 255 - 19)) :
    canonicalEncode l = canonicalEncode k := by
  apply canonicalEncode_eq_of_limbs_eq
  apply eq_of_value_eq (canonicalEncode_below51 l) (canonicalEncode_below51 k)
  rw [value_canonicalEncode_limbs, value_canonicalEncode_limbs, h]

/-- Settles O16: the residue determines the limbs and they determine the rest; the bytes hold the residue. -/
theorem encodingUniqueIffCongruent : Obligations.EncodingUniqueIffCongruent := fun l k =>
  ⟨canonicalEncode_congr, fun h => by rw [← bytesValue_canonicalEncode l, ← bytesValue_canonicalEncode k, h]⟩

end Sys2Proof.Machine
end

section
/-! Packing (42_canonical_encoder.md R155 to R157) and the ENCODE command on the canonical limbs (R160, R161). -/

namespace Sys2Proof.Machine

open Safety

/-! ### The bits of the packed value -/

/-- Bit b of limb k is bit 51k + b of N (42_canonical_encoder.md R155). -/
theorem getLsbD_packLimbs {t : Limbs} (h : LimbsBelow51 t) (k : Fin 5) {b : Nat} (hb : b < 51) :
    (packLimbs t).getLsbD (51 * k.val + b) = (t.get k).getLsbD b := by
  simp only [BitVec.getLsbD]
  rw [toNat_packLimbs h, ← value_div_mod_eq_get h k, Nat.testBit_mod_two_pow, Nat.testBit_div_two_pow, Nat.add_comm b]
  simp [hb]

theorem getLsbD_packLimbs_255 {t : Limbs} (h : LimbsBelow51 t) : (packLimbs t).getLsbD 255 = false :=
  Nat.testBit_lt_two_pow ((toNat_packLimbs h).trans_lt (value_lt_of_below51 h))

theorem getD_unpackBytes (n : BitVec 256) {j : Nat} (hj : j < 32) :
    (unpackBytes n).getD j 0 = n.extractLsb' (8 * j) 8 := by
  simp [unpackBytes, hj]

theorem toNat_getD_unpackBytes_packLimbs {t : Limbs} (h : LimbsBelow51 t) {j : Nat} (hj : j < 32) :
    ((unpackBytes (packLimbs t)).getD j 0).toNat = t.value / 2 ^ (8 * j) % 256 := by
  rw [getD_unpackBytes _ hj, BitVec.extractLsb'_toNat, Nat.shiftRight_eq_div_pow, toNat_packLimbs h]

/-- Settles O17: N is the value of the limbs, which are its digits in base 2^51. -/
theorem packingIsLittleEndianValue : Obligations.PackingIsLittleEndianValue := by
  intro t ht
  have hbit := getLsbD_packLimbs ht
  refine ⟨toNat_packLimbs ht, getLsbD_packLimbs_255 ht, by simp [unpackBytes],
    fun j hj => toNat_getD_unpackBytes_packLimbs ht hj,
    fun b hb => ⟨?_, hbit 1 hb, hbit 2 hb, hbit 3 hb, hbit 4 hb⟩⟩
  exact (congrArg (packLimbs t).getLsbD (Nat.zero_add b).symm).trans (hbit 0 hb)

/-! ### The byte table -/

/-- The word whose low eight bits are byte j (42_canonical_encoder.md R156): the byte starts at bit a of limb k, and
where it ends past that limb it takes its high bits from the next one. -/
def byteSource (t : Limbs) (j : Nat) : Word :=
  let k := Fin.ofNat 5 (8 * j / 51)
  let a := 8 * j % 51
  if a ≤ 43 ∨ k = 4 then t.get k >>> a else t.get k >>> a ||| t.get (k + 1) <<< (51 - a)

theorem getLsbD_get_eq_false {t : Limbs} (h : LimbsBelow51 t) (k : Fin 5) {b : Nat} (hb : 51 ≤ b) :
    (t.get k).getLsbD b = false :=
  Nat.testBit_lt_two_pow ((get_lt_of_below51 h k).trans_le (Nat.pow_le_pow_right (by decide) hb))

/-- A byte that lies inside limb k. -/
theorem extractLsb'_packLimbs_inside {t : Limbs} (h : LimbsBelow51 t) (k : Fin 5) {a : Nat} (ha : a ≤ 43) :
    (packLimbs t).extractLsb' (51 * k.val + a) 8 = (t.get k >>> a).setWidth 8 := by
  apply BitVec.eq_of_getLsbD_eq
  intro b hb
  have hbit := getLsbD_packLimbs h k (b := a + b) (by omega)
  simp [hb, Nat.add_assoc, hbit]

/-- A byte that begins in limb k and ends in the next. -/
theorem extractLsb'_packLimbs_straddling {t : Limbs} (h : LimbsBelow51 t) {k : Fin 5} {a : Nat} (hk : k ≠ 4)
    (ha : 43 < a) (ha' : a < 51) :
    (packLimbs t).extractLsb' (51 * k.val + a) 8 = (t.get k >>> a ||| t.get (k + 1) <<< (51 - a)).setWidth 8 := by
  have hsucc : (k + 1).val = k.val + 1 := by omega
  apply BitVec.eq_of_getLsbD_eq
  intro b hb
  have hb64 : b < 64 := by omega
  by_cases hin : a + b < 51
  · have hbit := getLsbD_packLimbs h k hin
    have hlow : b < 51 - a := by omega
    simp [hb, hb64, hlow, Nat.add_assoc, hbit]
  · have hbit := getLsbD_packLimbs h (k + 1) (b := b - (51 - a)) (by omega)
    have hpos : 51 * (k + 1).val + (b - (51 - a)) = 51 * k.val + (a + b) := by omega
    have hhigh : ¬ b < 51 - a := by omega
    rw [hpos] at hbit
    simp [hb, hb64, hhigh, Nat.add_assoc, hbit, getLsbD_get_eq_false h k (b := a + b) (by omega)]

/-- Byte 31: the seven high bits of limb 4, and bit 255, which is 0 (42_canonical_encoder.md R157). -/
theorem extractLsb'_packLimbs_last {t : Limbs} (h : LimbsBelow51 t) :
    (packLimbs t).extractLsb' 248 8 = (t.l4 >>> 44).setWidth 8 := by
  apply BitVec.eq_of_getLsbD_eq
  intro b hb
  by_cases hb7 : b < 7
  · have hbit : (packLimbs t).getLsbD (204 + (44 + b)) = t.l4.getLsbD (44 + b) := getLsbD_packLimbs h 4 (by omega)
    have hpos : 204 + (44 + b) = 248 + b := by omega
    rw [hpos] at hbit
    simp [hb, hbit]
  · obtain rfl : b = 7 := by omega
    have hl4 : t.l4.getLsbD (44 + 7) = false := getLsbD_get_eq_false h 4 (Nat.le_refl 51)
    have hn : (packLimbs t).getLsbD (248 + 7) = false := getLsbD_packLimbs_255 h
    rw [BitVec.getLsbD_extractLsb', BitVec.getLsbD_setWidth, BitVec.getLsbD_ushiftRight, hn, hl4, Bool.and_false]

theorem extractLsb'_packLimbs {t : Limbs} (h : LimbsBelow51 t) {j : Nat} (hj : j < 32) :
    (packLimbs t).extractLsb' (8 * j) 8 = (byteSource t j).setWidth 8 := by
  have hk : (Fin.ofNat 5 (8 * j / 51)).val = 8 * j / 51 := Nat.mod_eq_of_lt (by omega)
  have hpos : 8 * j = 51 * (Fin.ofNat 5 (8 * j / 51)).val + 8 * j % 51 := by rw [hk]; omega
  by_cases ha : 8 * j % 51 ≤ 43
  · rw [byteSource, if_pos (.inl ha), ← extractLsb'_packLimbs_inside h _ ha, ← hpos]
  · by_cases hlast : Fin.ofNat 5 (8 * j / 51) = 4
    · obtain rfl : j = 31 := by
        rw [hlast] at hk
        have : 8 * j / 51 = 4 := hk.symm
        omega
      exact extractLsb'_packLimbs_last h
    · rw [byteSource, if_neg (not_or.mpr ⟨ha, hlast⟩),
        ← extractLsb'_packLimbs_straddling h hlast (by omega) (Nat.mod_lt _ (by decide)), ← hpos]

theorem unpackBytes_packLimbs {t : Limbs} (h : LimbsBelow51 t) :
    unpackBytes (packLimbs t) = ((List.range 32).map (byteSource t)).map (fun x => x.setWidth 8) := by
  rw [unpackBytes, List.map_map]
  exact List.map_congr_left fun j hj => extractLsb'_packLimbs h (List.mem_range.mp hj)

/-- Settles O18: the table is `byteSource` at 0 to 31. -/
theorem packingByteTable : Obligations.PackingByteTable := fun _ ht => unpackBytes_packLimbs ht

/-! ### The top-bit check -/

theorem toNat_byte31_canonicalEncode (l : Limbs) :
    ((canonicalEncode l).bytes.getD 31 0).toNat = (canonicalEncode l).limbs.l4.toNat / 2 ^ 44 := by
  have hbelow := canonicalEncode_below51 l
  have hbyte : (canonicalEncode l).bytes.getD 31 0 = ((canonicalEncode l).limbs.l4 >>> 44).setWidth 8 :=
    (getD_unpackBytes _ (by decide)).trans (extractLsb'_packLimbs_last hbelow)
  obtain ⟨-, -, -, -, h4⟩ := hbelow
  rw [hbyte, BitVec.toNat_setWidth, BitVec.toNat_ushiftRight, Nat.shiftRight_eq_div_pow]
  omega

/-- Settles O19: byte 31 is the seven high bits of a limb below 2^51. -/
theorem topBitCheckNeverFails : Obligations.TopBitCheckNeverFails := by
  refine ⟨fun l => ?_, fun s t h => ?_⟩
  · have hbyte := toNat_byte31_canonicalEncode l
    obtain ⟨-, -, -, -, h4⟩ := canonicalEncode_below51 l
    exact ⟨rfl, hbyte, by omega, canonicalEncode_top_eq_false l⟩
  · obtain ⟨-, -, -, -, htop, -⟩ := exec_frame h
    exact htop

/-! ### Encoding again -/

theorem subtractPrime_zero {t : Limbs} (h : LimbsBelow51 t) : subtractPrime t 0 = t := by
  have hzero : (0 : Word).toNat = 0 := rfl
  have hvalue : (subtractPrime t 0).value = t.value := by
    rw [value_subtractPrime_eq_mod (limbsReduced_of_below51 h) (by decide), hzero, Nat.mul_zero, Nat.add_zero,
      Nat.mod_eq_of_lt (value_lt_of_below51 h)]
  exact eq_of_value_eq (masked_below51 _) h hvalue

theorem quotientBit_eq_zero_of_lt {t : Limbs} (h : LimbsBelow51 t) (hv : t.value < 2 ^ 255 - 19) :
    quotientBit t = 0 := by
  obtain ⟨hq, -⟩ | ⟨-, hge⟩ := quotientBit_cases (limbsReduced_of_below51 h)
  · exact BitVec.eq_of_toNat_eq hq
  · exact absurd hv hge.not_gt

/-- The limbs have the residue of their input, and congruent inputs have one encoding (42_canonical_encoder.md R161). -/
theorem canonicalEncode_canonicalEncode_limbs (l : Limbs) :
    canonicalEncode (canonicalEncode l).limbs = canonicalEncode l := by
  apply canonicalEncode_congr
  rw [value_canonicalEncode_limbs, Nat.mod_mod]

theorem exec_encode_writes {s t : State} (h : exec .encode s = .next t) :
    t.out = (canonicalEncode s.latch).limbs ∧ t.obw = byteWords (canonicalEncode s.latch).bytes := by
  cases h; exact ⟨rfl, rfl⟩

/-- Settles O20: the canonical limbs are below 2^51 and hold a value below p. -/
theorem encodeIsIdempotent : Obligations.EncodeIsIdempotent := by
  refine ⟨fun l => ?_, fun s t h => ?_⟩
  · intro t
    have hbelow : LimbsBelow51 t := canonicalEncode_below51 l
    have hlt : t.value < 2 ^ 255 - 19 := value_canonicalEncode_limbs_lt l
    exact ⟨hbelow, weakReduce_eq_self_of_below51 hbelow, Nat.le_pred_of_lt hlt, Nat.add_lt_of_lt_sub hlt,
      quotientBit_eq_zero_of_lt hbelow hlt, subtractPrime_zero hbelow, canonicalEncode_canonicalEncode_limbs l⟩
  · obtain ⟨hout, hobw⟩ := exec_encode_writes h
    obtain ⟨r, hr⟩ := exec_next .encode { t with latch := t.out }
    obtain ⟨hout', hobw'⟩ := exec_encode_writes hr
    have hagain : canonicalEncode t.out = canonicalEncode s.latch := by
      rw [hout, canonicalEncode_canonicalEncode_limbs]
    exact ⟨r, hr, hout'.trans ((congrArg Encoding.limbs hagain).trans hout.symm),
      hobw'.trans ((congrArg (fun e => byteWords e.bytes) hagain).trans hobw.symm)⟩

/-! ### The command -/

theorem value_div_mod_eq_byteWord (b : ByteWords) (k : Fin 4) :
    b.value / 2 ^ (64 * k.val) % 2 ^ 64 = (b.get k).toNat := by
  have h0 := b.w0.isLt
  have h1 := b.w1.isLt
  have h2 := b.w2.isLt
  have h3 := b.w3.isLt
  unfold ByteWords.value
  fin_cases k <;> simp only [ByteWords.get] <;> omega

/-- A byte that lies inside the low 64 bits. -/
theorem mod_two_pow_div_mod (v : Nat) {m : Nat} (hm : m ≤ 56) : v % 2 ^ 64 / 2 ^ m % 256 = v / 2 ^ m % 256 := by
  have hsplit : 2 ^ 64 = 2 ^ m * 2 ^ (64 - m) := by rw [← Nat.pow_add, Nat.add_sub_cancel' (by omega)]
  have hdvd : 256 ∣ 2 ^ (64 - m) := Nat.pow_dvd_pow 2 (m := 8) (by omega)
  rw [hsplit, Nat.mod_mul_right_div_self, Nat.mod_mod_of_dvd _ hdvd]

/-- BYTE[j] is the j-th little-endian byte of OBW (10_state.md R24, R25). -/
theorem toNat_byteAt (b : ByteWords) (j : Fin 32) : (b.byteAt j).toNat = b.value / 2 ^ (8 * j.val) % 256 := by
  have hpos : 64 * (j.val / 8) + 8 * (j.val % 8) = 8 * j.val := by omega
  calc (b.byteAt j).toNat = b.value / 2 ^ (64 * (j.val / 8)) % 2 ^ 64 / 2 ^ (8 * (j.val % 8)) % 256 := by
        rw [ByteWords.byteAt, toNat_laneOfWord, ← value_div_mod_eq_byteWord]
    _ = b.value / 2 ^ (64 * (j.val / 8)) / 2 ^ (8 * (j.val % 8)) % 256 := mod_two_pow_div_mod _ (by omega)
    _ = b.value / 2 ^ (8 * j.val) % 256 := by rw [Nat.div_div_eq_div_mul, ← Nat.pow_add, hpos]

theorem exec_encode_value {s t : State} (h : exec .encode s = .next t) :
    LimbsBelow51 t.out ∧ t.out.value = s.latch.value % (2 ^ 255 - 19) ∧
    t.obw.value = s.latch.value % (2 ^ 255 - 19) := by
  obtain ⟨hout, hobw⟩ := exec_encode_writes h
  rw [hout, hobw, value_byteWords_canonicalEncode]
  exact ⟨canonicalEncode_below51 _, value_canonicalEncode_limbs _, value_canonicalEncode_limbs _⟩

/-- Below 2^255 the top bit of BYTE[31] is 0. -/
theorem getLsbD_byteAt_31 {b : ByteWords} (h : b.value < 2 ^ 255) : (b.byteAt 31).getLsbD 7 = false := by
  apply Nat.testBit_lt_two_pow
  rw [toNat_byteAt]
  have h31 : (31 : Fin 32).val = 31 := rfl
  rw [h31]
  omega

/-- Settles O23: OUT and OBW both hold the least residue of LATCH, OBW as its little-endian bytes. -/
theorem encodeCommandCompletes : Obligations.EncodeCommandCompletes := by
  intro s
  obtain ⟨t, hexec⟩ := exec_next .encode s
  obtain ⟨hpend, hdone, -, -, htop, -⟩ := exec_frame hexec
  obtain ⟨hbelow, hout, hobw⟩ := exec_encode_value hexec
  have hlt : t.obw.value < 2 ^ 255 := hobw.trans_lt ((Nat.mod_lt _ (by decide)).trans (by decide))
  exact ⟨t, hexec, hbelow, hout, hobw, fun j => hobw ▸ toNat_byteAt t.obw j, getLsbD_byteAt_31 hlt, hpend, hdone, htop⟩

/-- Settles O21, by running the encoder. -/
theorem encodeBoundaryCases : Obligations.EncodeBoundaryCases :=
  ⟨by decide, by decide, by decide, by decide, by decide, by decide⟩

end Sys2Proof.Machine
end

section
/-! The exceptional turns (60_exceptions.md): an access answered with a bus error (R181, R182), one in the cycle of a
completion (R187), and one in a reset cycle (R188). -/

namespace Sys2Proof.Machine

open Safety

/-! ### Bus errors -/

/-- Only a write that is acknowledged has an effect (60_exceptions.md R182). -/
theorem State.serve_error_unchanged {s : State} {a : BusAccess} {k : BusErrorKind} (h : (s.serve a).1 = .error k) :
    (s.serve a).2 = s := by
  obtain hsame | ⟨-, -, -, -, -, hack, -⟩ | ⟨-, -, -, -, hack, -⟩ := s.serve_cases a
  · exact hsame
  · cases hack.symm.trans h
  · cases hack.symm.trans h

theorem busTurn_of_error {a : BusAccess} {s : State} {k : BusErrorKind} (dst : Option Nat) (hw : a.inWindow = true)
    (h : (s.serve a).1 = .error k) : busTurn a dst s = .fault (.busError k a.addr a.size) := by
  have hreply : s.serve a = (.error k, s) := Prod.ext h (State.serve_error_unchanged h)
  rw [busTurn, if_pos hw, hreply]

theorem step_of_host_stmt {s u : State} {st : HostStmt} (hturn : s.takeTurn = (.host, u))
    (hstmt : u.currentStmt = some st) : step s = hostStatement busTurn st u :=
  (step_eq_runTurn hturn).trans (hostTurn_of_stmt hstmt)

/-- Settles O48: an erroneous access has no effect on the engine, and a raw access on the host's turn hands its error to
the run. -/
theorem busErrorIsFaultOfRun : Obligations.BusErrorIsFaultOfRun :=
  ⟨fun _ _ _ => State.serve_error_unchanged,
    fun _ _ _ _ x _ hturn hstmt hw herror =>
      (step_of_host_stmt hturn hstmt).trans (busTurn_of_error (some x) hw herror),
    fun _ _ _ _ _ _ hturn hstmt hw herror =>
      (step_of_host_stmt hturn hstmt).trans (busTurn_of_error none hw herror)⟩

/-! ### Completion and an access in one cycle -/

theorem State.currentStmt_congr {s t : State} (h : HostSame s t) : t.currentStmt = s.currentStmt := by
  obtain ⟨hprog, hpc, hhalted, -⟩ := h
  simp only [State.currentStmt, hprog, hpc, hhalted]

theorem step_of_engineThenHost_pend {s u r : State} {i : Instr} (hturn : s.takeTurn = (.engineThenHost, u))
    (hp : u.pend = some i) (hexec : exec i u = .next r) : step s = hostTurn r :=
  (step_eq_runTurn hturn).trans (runTurn_engineThenHost ((engineTurn_of_pend hp).trans hexec))

/-- A nonzero value is read back from any list of variables: the canonical form matters for a written 0 alone. -/
theorem varRead_varWrite_of_ne_zero (vs : List (Nat × Word)) (n : Nat) {w : Word} (hw : w ≠ 0) :
    varRead (varWrite vs n w) n = w := by
  induction vs with
  | nil =>
    rw [varWrite, if_neg hw]
    exact varRead_cons_same ..
  | cons a rest ih =>
    obtain ⟨k, v⟩ := a
    rw [varWrite, if_neg hw, if_neg hw]
    split_ifs with hlt heq
    · exact varRead_cons_same ..
    · exact varRead_cons_same ..
    · rw [varRead_cons_other _ _ heq, ih]

theorem State.statusWord_ne_zero {s : State} (h : s.done = true) : s.statusWord ≠ 0 := by
  intro hzero
  obtain ⟨-, hbit₁, -⟩ := statusFields s
  rw [hzero, h] at hbit₁
  cases hbit₁

theorem hostTurn_rd {s : State} {r : WindowReg} {x : Nat} {w : Word} (h : s.currentStmt = some (.rd r x))
    (hr : s.readReg r = some w) : hostTurn s = .next (s.setVar x w).advance :=
  (hostTurn_of_stmt h).trans (busTurn_read_addr x hr)

/-- Settles O36: the step is the host's turn on the completed state, which is idle and done and stands at the same
statement. -/
theorem sameCycleCompletionFirst : Obligations.SameCycleCompletionFirst := by
  intro s u r i hturn hp hexec
  have hstep : step s = hostTurn r := step_of_engineThenHost_pend hturn hp hexec
  have hstmt : r.currentStmt = u.currentStmt := State.currentStmt_congr (exec_hostSame hexec)
  obtain ⟨hpend, hdone, -⟩ := exec_frame hexec
  rw [← hstmt]
  refine ⟨hstep, hpend, hdone, fun x h => ?read, fun v j h hdec => ?accepted, fun v e h hdec => ?rejected⟩
  case read =>
    obtain ⟨hbit₀, hbit₁, -⟩ := statusFields r
    obtain ⟨hsame, -⟩ := (HostMove.setVar (s := r) x r.statusWord).frame
    have hvar : (r.setVar x r.statusWord).advance.var x = r.statusWord :=
      varRead_varWrite_of_ne_zero r.hostVars x (State.statusWord_ne_zero hdone)
    refine ⟨_, hstep.trans (hostTurn_rd h rfl), hsame, ?_, ?_⟩
    · rw [hvar, hbit₀, hpend]; rfl
    · rw [hvar, hbit₁, hdone]
  case accepted =>
    obtain rfl := decodeCommand_eq_ok_iff.mp hdec
    exact ⟨_, hstep.trans (hostTurn_wr_command h hpend), rfl, exec_inp hexec, rfl, rfl, rfl⟩
  case rejected =>
    have hreject : hostTurn r = .next r.rejectCommand.advance := by
      rw [hostTurn_wr h rfl, State.writeReg, State.cmdWrite_of_illegal hpend hdec]
    exact ⟨_, hstep.trans hreject, hpend, rfl, rfl, rfl⟩

/-! ### An access in a reset cycle -/

theorem resetEngine_atReset (s : State) : EngineAtReset s.resetEngine :=
  ⟨rfl, rfl, rfl, rfl, rfl, rfl, rfl, rfl, rfl⟩

/-- The host moves on its own in a reset cycle, so the engine keeps its reset values. -/
theorem hostTurnInReset_engineSame {s t : State} (h : hostTurnInReset s = .next t) : EngineSame s t := by
  obtain hmove | hmove := hostTurnInReset_cases h <;>
    obtain ⟨hsame, -⟩ := hmove.frame <;> exact hsame

theorem engineAtReset_of_engineSame {s t : State} (hs : EngineAtReset s) (h : EngineSame s t) : EngineAtReset t := by
  obtain ⟨hinp, hout, hobw, hdone, hcmd, hbusy, htop, hpend, hlatch⟩ := h
  rwa [EngineAtReset, hinp, hout, hobw, hdone, hcmd, hbusy, htop, hpend, hlatch]

theorem step_of_resetOverHost {s u : State} {st : HostStmt} (hturn : s.takeTurn = (.resetOverHost, u))
    (hstmt : u.currentStmt = some st) : step s = hostStatement lostTurn st u.resetEngine := by
  have hstmt' : u.resetEngine.currentStmt = some st := hstmt
  rw [step_eq_runTurn hturn, runTurn, hostTurnInReset, hstmt']

theorem lostTurn_write_addr (s : State) (r : WindowReg) (v : Word) :
    lostTurn (.write r.addr 8 v) none s = .next s.advance := by
  rw [lostTurn, if_pos (r.write_inWindow 8 v)]

theorem lostTurn_read_addr (s : State) (r : WindowReg) (x : Nat) :
    lostTurn (.read r.addr 8) (some x) s =
      .next ((s.setVar x (Config.freeReadData s.freeCount)).countFree).advance := by
  rw [lostTurn, if_pos (r.read_inWindow 8)]

/-- Settles O39: the host's statement runs on the reset engine with its bus access lost, so the host alone moves. -/
theorem resetOverridesHostAccess : Obligations.ResetOverridesHostAccess := by
  intro s u st hturn hstmt
  have hstep : step s = hostStatement lostTurn st u.resetEngine := step_of_resetOverHost hturn hstmt
  have hreset (t : State) (h : step s = .next t) : EngineAtReset t :=
    engineAtReset_of_engineSame (resetEngine_atReset u)
      (hostTurnInReset_engineSame ((step_eq_runTurn hturn).symm.trans h))
  have hwrite {r : WindowReg} {v : Word} (h : step s = lostTurn (.write r.addr 8 v) none u.resetEngine) :
      ∃ t, step s = .next t ∧ EngineAtReset t ∧ t.hostVars = u.hostVars ∧ t.hostPc = u.hostPc + 1 :=
    have hnext := h.trans (lostTurn_write_addr ..)
    ⟨_, hnext, hreset _ hnext, rfl, rfl⟩
  refine ⟨fun r v h => ?wr, fun r x h => ?wrVar, fun r x h => ?rd, hreset⟩
  case wr => subst h; exact hwrite hstep
  case wrVar => subst h; exact hwrite hstep
  case rd =>
    subst h
    have hnext := hstep.trans (lostTurn_read_addr ..)
    exact ⟨_, hnext, hreset _ hnext, fun y hy => varRead_varWrite_other u.hostVars _ hy, rfl⟩

end Sys2Proof.Machine
end

section
/-! Reset and hazards (70_reset_and_hazards.md): a reset turn (R200), two CMD writes in a row (R207), and control that
does not depend on limb values (R213). -/

namespace Sys2Proof.Machine

open Safety

/-! ### Reset -/

theorem resetEngine_hostSame (s : State) : HostSame s s.resetEngine := ⟨rfl, rfl, rfl, rfl, rfl, rfl⟩

theorem engineTurn_of_idle {s : State} (h : s.pend = none) : engineTurn s = .next s := by
  simp only [engineTurn, h]

/-- Settles O38: reset leaves PEND at NONE, so no completion is enabled after it. -/
theorem resetTurn : Obligations.ResetTurn := by
  intro s u hturn
  have hstep : step s = .next u.resetEngine := step_eq_runTurn hturn
  exact ⟨_, hstep, resetEngine_atReset u, resetEngine_hostSame u, engineTurn_of_idle rfl⟩

/-! ### Two CMD writes in a row -/

theorem currentStmt_of_getElem? {s : State} {st : HostStmt} (hrun : s.hostHalted = false)
    (hst : s.hostProg[s.hostPc]? = some st) : s.currentStmt = some st := by
  simp [State.currentStmt, hrun, hst]

/-- A host turn at a command word, with the engine idle, accepts the command (40_command_protocol.md R101). -/
theorem step_of_host_accepts {s u : State} {i : Instr} (hturn : s.takeTurn = (.host, u))
    (hstmt : u.currentStmt = some (.wr .cmd (encode i))) (hp : u.pend = none) :
    step s = .next (u.acceptCommand i).advance :=
  (step_eq_runTurn hturn).trans (hostTurn_wr_command hstmt hp)

/-- A host turn at a CMD write, with a command pending, drops the word (40_command_protocol.md R103). -/
theorem step_of_host_drops {s u : State} {v : Word} {i : Instr} (hturn : s.takeTurn = (.host, u))
    (hstmt : u.currentStmt = some (.wr .cmd v)) (hp : u.pend = some i) :
    step s = .next u.raiseErrBusy.advance := by
  rw [step_of_host_wr hturn hstmt rfl, State.writeReg, State.cmdWrite_of_pend v hp]

/-- Settles O32: the second write finds the first command pending and is dropped, or finds it completed and is accepted;
either way the first command computes from the IN it latched. -/
theorem backToBackCommandsHaveBothOutcomes : Obligations.BackToBackCommandsHaveBothOutcomes := by
  intro s i j rest hpend hrun hfirst hsecond
  obtain ⟨r, hr⟩ := exec_next i { s with latch := s.inp }
  have haccept (turns : List Turn) : step { s with sched := .host :: turns } =
      .next (State.acceptCommand { s with sched := turns } i).advance :=
    step_of_host_accepts rfl (currentStmt_of_getElem? hrun hfirst) hpend
  refine ⟨?dropped, ?accepted⟩
  case dropped =>
    have hdrop := step_of_host_drops (s := (State.acceptCommand { s with sched := .host :: .engine :: rest } i).advance)
      rfl (currentStmt_of_getElem? hrun hsecond) rfl
    obtain ⟨t, ht⟩ := exec_next i (State.acceptCommand { s with sched := rest } i).advance.raiseErrBusy.advance
    obtain ⟨htpend, htdone, -, htbusy, -⟩ := exec_frame ht
    obtain ⟨-, -, -, -, htsched, -⟩ := exec_hostSame ht
    obtain ⟨hout, hobw, -⟩ := exec_result_congr hr ht rfl rfl rfl
    exact ⟨_, _, t, r, haccept _, hdrop, (step_of_engine_pend rfl rfl).trans ht, hr, htpend, htdone, htbusy, hout, hobw,
      htsched⟩
  case accepted =>
    obtain ⟨q, hq⟩ := exec_next i (State.acceptCommand { s with sched := .host :: rest } i).advance
    obtain ⟨hqpend, -⟩ := exec_frame hq
    obtain ⟨hqprog, hqpc, hqhalted, -, hqsched, -⟩ := exec_hostSame hq
    obtain ⟨hout, hobw, -⟩ := exec_result_congr hr hq rfl rfl rfl
    have hqstmt : q.currentStmt = some (.wr .cmd (encode j)) :=
      currentStmt_of_getElem? (hqhalted.trans hrun) (by rw [hqprog, hqpc]; exact hsecond)
    have haccept₂ := step_of_host_accepts (takeTurn_of_sched_cons hqsched) hqstmt hqpend
    exact ⟨_, q, _, r, haccept _, (step_of_engine_pend rfl rfl).trans hq, haccept₂, hr, rfl, rfl, rfl, hout, hobw, rfl⟩

/-! ### Control and limb values -/

theorem statusWord_of_controlSame {s s' : State} (h : ControlSame s s') : s'.statusWord = s.statusWord := by
  obtain ⟨hdone, hcmd, hbusy, htop, hpend⟩ := h
  rw [State.statusWord, State.busy, hdone, hcmd, hbusy, htop, hpend]
  rfl

/-- A completion fixes PEND and DONE and keeps the other control bits (40_command_protocol.md R106). -/
theorem exec_controlSame {i : Instr} {s s' t t' : State} (h : ControlSame s s') (ht : exec i s = .next t)
    (ht' : exec i s' = .next t') : ControlSame t t' := by
  obtain ⟨-, hcmd, hbusy, htop, -⟩ := h
  obtain ⟨htpend, htdone, htcmd, htbusy, httop, -⟩ := exec_frame ht
  obtain ⟨htpend', htdone', htcmd', htbusy', httop', -⟩ := exec_frame ht'
  exact ⟨htdone'.trans htdone.symm, by rw [htcmd', hcmd, htcmd], by rw [htbusy', hbusy, htbusy],
    by rw [httop', htop, httop], htpend'.trans htpend.symm⟩

theorem engineTurn_controlSame {s s' : State} (h : ControlSame s s') :
    ∃ t t', engineTurn s = .next t ∧ engineTurn s' = .next t' ∧ ControlSame t t' := by
  have ⟨_, _, _, _, hpend⟩ := h
  cases hp : s.pend with
  | none => exact ⟨s, s', engineTurn_of_idle hp, engineTurn_of_idle (hpend.trans hp), h⟩
  | some i =>
    obtain ⟨t, ht⟩ := exec_next i s
    obtain ⟨t', ht'⟩ := exec_next i s'
    exact ⟨t, t', (engineTurn_of_pend hp).trans ht, (engineTurn_of_pend (hpend.trans hp)).trans ht',
      exec_controlSame h ht ht'⟩

/-- PEND and the word decide what a CMD write does, and each outcome sets control bits to fixed values or keeps them. -/
theorem cmdWrite_controlSame {s s' : State} (h : ControlSame s s') (v : Word) :
    ControlSame (s.cmdWrite v) (s'.cmdWrite v) := by
  obtain ⟨hdone, hcmd, hbusy, htop, hpend⟩ := h
  obtain ⟨i, hp, hw⟩ | ⟨i, hp, hdec, hw⟩ | ⟨e, hp, hdec, hw⟩ := s.cmdWrite_cases v
  · rw [hw, State.cmdWrite_of_pend v (hpend.trans hp)]
    exact ⟨hdone, hcmd, rfl, htop, hpend⟩
  · obtain rfl := decodeCommand_eq_ok_iff.mp hdec
    rw [hw, State.cmdWrite_encode i (hpend.trans hp)]
    exact ⟨rfl, rfl, rfl, htop, rfl⟩
  · rw [hw, State.cmdWrite_of_illegal (hpend.trans hp) hdec]
    exact ⟨rfl, rfl, rfl, htop, hpend⟩

/-- Settles O53: a completion and a CMD write choose by PEND and the word, an IN write reaches no control field, and the
top-bit check, the one control bit computed from limbs, is 0 for all of them. -/
theorem controlIndependentOfLimbs : Obligations.ControlIndependentOfLimbs := fun _ _ h =>
  ⟨statusWord_of_controlSame h, engineTurn_controlSame h, cmdWrite_controlSame h, fun _ _ _ => h⟩

end Sys2Proof.Machine
end
